-- ==== Sys2Proof/Word.lean ====
section
/-! DEFINITION. The words of the block and their plainest arithmetic (00_scope.md R14). -/

namespace Sys2Proof

/-- One bit: 0 is low or `false`, 1 is high or `true` (R14). -/
abbrev Bit := BitVec 1

/-- A byte: 8 bits, unsigned (R14). -/
abbrev Byte := BitVec 8

/-- A 32-bit unsigned quantity: `duration_ms` and `delay_counter` (R14). -/
abbrev Word32 := BitVec 32

end Sys2Proof
end

