-- ==== Sys2Proof/Syntax.lean ====
section
/-! DEFINITION. The operations of the block: one constructor per row of spec/opcode_table.json (00_scope.md R7, R9). -/

namespace Sys2Proof

/-- The thirteen operations: seven host operations (R9), three handlers and three environment steps (R7). -/
inductive Instr where
  /-- `INIT` (R210). -/
  | init
  /-- `AVAIL` (R190, R191). -/
  | avail
  /-- `TXRDY` (R120). -/
  | txrdy
  /-- `SEND b` (R121). -/
  | send (b : Byte)
  /-- `RECV` (R192, R193). -/
  | recv
  /-- `ALARM d`, `d` in milliseconds (R142). -/
  | alarm (d : Word32)
  /-- `DELAY d`, `d` in milliseconds (R147). -/
  | delay (d : Word32)
  /-- `ISR_EDGE`, the edge sensor's handler (R162). -/
  | isrEdge
  /-- `ISR_CMPA`, the compare-match handler of channel A (R122). -/
  | isrCmpa
  /-- `ISR_CMPB`, the compare-match handler of channel B (R164). -/
  | isrCmpb
  /-- `TICK`: one timer tick passes (R106). -/
  | tick
  /-- `RXLINE(l)`: the receive line takes level `l` (R160). -/
  | rxline (l : Bit)
  /-- `GIE(v)`: the global interrupt enable takes value `v` (R212). -/
  | gie (v : Bit)
  deriving DecidableEq, Repr

end Sys2Proof
end

