-- ==== Sys2Proof/Decode.lean ====
section
/-! DEFINITION. The command words of 30_encoding.md R84 to R87, the vectors and environment selectors of R92, the decoder, and
the encoder written from the same tables. -/

namespace Sys2Proof

/-- Why a word is no operation (R87, R92). -/
inductive DecodeError where
  /-- Nothing to decode. -/
  | empty
  /-- An opcode in `0x07 .. 0xFF` (R87). -/
  | reservedOpcode (op : Byte)
  /-- Shorter than the format of its opcode (R87). -/
  | truncated (op : Byte)
  deriving DecidableEq, Repr

/-- What the command decoder answers: an operation and the bytes after it, or an error by name. -/
inductive Decoded where
  | command (i : Instr) (rest : List Byte)
  | bad (e : DecodeError)
  deriving DecidableEq, Repr

/-- Assemble `imm32` from its bytes in stream order, least significant first (R84, R86). -/
def imm32Of (b0 b1 b2 b3 : Byte) : Word32 := b3 ++ b2 ++ b1 ++ b0

/-- Byte `k` of `imm32` in stream order (R84). -/
def imm32Byte (d : Word32) (k : Nat) : Byte := d.extractLsb' (8 * k) 8

/-- The length in bytes of a command, from its opcode byte alone (R84, R85). A reserved opcode stands alone. -/
def commandLength (op : Byte) : Nat :=
  match op.toNat with
  | 3 => 2
  | 5 => 5
  | 6 => 5
  | _ => 1

/-- The operand of formats `F4` (R84): four bytes, little-endian. -/
def decodeImm32 (op : Byte) (k : Word32 → Instr) (bs : List Byte) : Decoded :=
  match bs with
  | b0 :: b1 :: b2 :: b3 :: rest => .command (k (imm32Of b0 b1 b2 b3)) rest
  | _ => .bad (.truncated op)

/-- The operand of format `F1` (R84): one byte. -/
def decodeImm8 (op : Byte) (k : Byte → Instr) (bs : List Byte) : Decoded :=
  match bs with
  | b :: rest => .command (k b) rest
  | [] => .bad (.truncated op)

/-- The command decoder: the opcode map of R85, total on any bytes. -/
def decodeCommand (bs : List Byte) : Decoded :=
  match bs with
  | [] => .bad .empty
  | op :: rest =>
    match op.toNat with
    | 0 => .command .init rest
    | 1 => .command .avail rest
    | 2 => .command .txrdy rest
    | 3 => decodeImm8 op .send rest
    | 4 => .command .recv rest
    | 5 => decodeImm32 op .alarm rest
    | 6 => decodeImm32 op .delay rest
    | _ => .bad (.reservedOpcode op)

/-- An environment word in three bits: the selector in bits `[1:0]`, the argument in bit 2 (R92). `TICK` has two bits only,
so its bit 2 is 0 here (DESIGN CHOICE, log 17: safe), and selector 3 is not defined. -/
def decodeEnv (w : BitVec 3) : Option Instr :=
  match (w.extractLsb' 0 2).toNat with
  | 0 => if w.extractLsb' 2 1 = 0#1 then some .tick else none
  | 1 => some (.rxline (w.extractLsb' 2 1))
  | 2 => some (.gie (w.extractLsb' 2 1))
  | _ => none

/-- A handler's vector number; 0 is not used (R92, R226). -/
def decodeVector (v : BitVec 2) : Option Instr :=
  match v.toNat with
  | 1 => some .isrEdge
  | 2 => some .isrCmpa
  | 3 => some .isrCmpb
  | _ => none

/-- The three kinds of word: a command's bytes (R84), an environment word, a handler's vector (R92). -/
inductive Code where
  | command (bytes : List Byte)
  | environment (w : BitVec 3)
  | vector (v : BitVec 2)
  deriving DecidableEq, Repr

/-- The operation a word stands for, all of it. -/
def decode (c : Code) : Option Instr :=
  match c with
  | .command bs =>
    match decodeCommand bs with
    | .command i [] => some i
    | _ => none
  | .environment w => decodeEnv w
  | .vector v => decodeVector v

/-! ## The encoder -/

/-- The four bytes of an `imm32`, in stream order (R84). -/
def imm32Bytes (d : Word32) : List Byte := [imm32Byte d 0, imm32Byte d 1, imm32Byte d 2, imm32Byte d 3]

/-- The word of an operation (R84 to R86, R92). -/
def encode (i : Instr) : Code :=
  match i with
  | .init => .command [0x00#8]
  | .avail => .command [0x01#8]
  | .txrdy => .command [0x02#8]
  | .send b => .command [0x03#8, b]
  | .recv => .command [0x04#8]
  | .alarm d => .command (0x05#8 :: imm32Bytes d)
  | .delay d => .command (0x06#8 :: imm32Bytes d)
  | .isrEdge => .vector 1#2
  | .isrCmpa => .vector 2#2
  | .isrCmpb => .vector 3#2
  | .tick => .environment 0#3
  | .rxline l => .environment (l ++ 1#2)
  | .gie v => .environment (v ++ 2#2)

/-- The bytes of a host operation's command word; handlers and environment steps have none (R92). -/
def commandBytes (i : Instr) : List Byte :=
  match encode i with
  | .command bs => bs
  | _ => []

/-! ## The opcode table's words

spec/opcode_table.json numbers bit 0 as the least significant bit of the first byte. Commands are whole bytes; the rows of
format EVT have 2 bits and those of format ENV 2 or 3, so a word's width tells the kinds apart (log 16). -/

/-- Byte `k` of a table word. -/
def tableByte (w k : Nat) : Byte := BitVec.ofNat 8 (w / 256 ^ k)

/-- The bytes of a table word, up to the longest command. -/
def tableBytes (w : Nat) : List Byte := [tableByte w 0, tableByte w 1, tableByte w 2, tableByte w 3, tableByte w 4]

/-- The command that a table word holds: as many bytes as its opcode byte asks for. -/
def tableCommand (w : Nat) : List Byte := (tableBytes w).take (commandLength (tableByte w 0))

/-- The word of a table row, by the row's width (log 16). -/
def tableCode (nbits w : Nat) : Code :=
  match nbits with
  | 2 => if w % 4 = 0 then .environment 0#3 else .vector (BitVec.ofNat 2 w)
  | 3 => .environment (BitVec.ofNat 3 w)
  | _ => .command (tableCommand w)

/-- The operation the decoder reads from a table row's word `w` of `nbits` bits. -/
def decodeTableWord (nbits w : Nat) : Option Instr := decode (tableCode nbits w)

/-- The width the table gives an operation's row. -/
def tableWidth (i : Instr) : Nat :=
  match i with
  | .init | .avail | .txrdy | .recv => 8
  | .send _ => 16
  | .alarm _ | .delay _ => 40
  | .isrEdge | .isrCmpa | .isrCmpb | .tick => 2
  | .rxline _ | .gie _ => 3

/-- The bits of an operation's table word, bit 0 the least significant of the first byte. -/
def tableBits (i : Instr) : Nat :=
  match i with
  | .init => 0x00
  | .avail => 0x01
  | .txrdy => 0x02
  | .send b => 0x03 + 256 * b.toNat
  | .recv => 0x04
  | .alarm d => 0x05 + 256 * d.toNat
  | .delay d => 0x06 + 256 * d.toNat
  | .isrEdge => 1
  | .isrCmpa => 2
  | .isrCmpb => 3
  | .tick => 0
  | .rxline l => 1 + 4 * l.toNat
  | .gie v => 2 + 4 * v.toNat

end Sys2Proof
end

