-- ==== Sys2Proof/Config.lean ====
section
/-! DEFINITION. The implementation parameters of 00_scope.md R5, fixed for the life of the block (R76). -/

namespace Sys2Proof

/-- `RX_VARIANT` (R5): which receive buffer is built. -/
inductive RxVariant where
  | ring
  | single
  deriving DecidableEq, Repr

/-- The parameters of R5, under the spec's names. They are plain data of the machine, changed by no step, so a statement
about every state is a statement about every block R5 admits (DESIGN CHOICE, log 5: safe). -/
structure Config where
  /-- Counter period in ticks. -/
  P : Nat
  /-- Oversampling factor: matches per bit. -/
  N : Nat
  /-- `F_TICK`: ticks per second, used by the millisecond conversion only (R141). -/
  fTick : Nat
  rxVariant : RxVariant
  /-- Ring-buffer capacity in slots (`Ring` variant only). -/
  C : Nat
  /-- `CNT_BITS`: width of the counter and of the two compare registers. -/
  cntBits : Nat
  deriving DecidableEq, Repr

/-- The reference configuration: the source's scenario values (R5) and the spec's own `C = 4`, `CNT_BITS = 8`
(95_test_vectors.md). -/
def Config.reference : Config :=
  { P := 208, N := 1, fTick := 2000000, rxVariant := .ring, C := 4, cntBits := 8 }

end Sys2Proof
end

