-- ==== Sys2Proof/Machine/State.lean ====
section
/-! DEFINITION. The state of the block (10_state.md), the reasons a step can stop, and the state after reset. -/

namespace Sys2Proof.Machine

/-- `tx_state` (R31): the TxEngine's sequencing state, its payloads flattened as R52 does. -/
inductive TxState where
  | idle
  | sendStart
  | sendData
  | sendStop
  | finishing
  | timedDelay
  deriving DecidableEq, Repr

/-- `rx_state` (R37): the RxEngine's sequencing state. -/
inductive RxState where
  | idle
  | armedForStart
  | sampleData
  | checkStop
  deriving DecidableEq, Repr

/-- `available` (R41): the tri-state flag of the `Single` variant. -/
inductive Available where
  | none
  | byte
  | framingError
  deriving DecidableEq, Repr

/-- The two compare-match channels of BitClock (R2). -/
inductive Channel where
  | A
  | B
  deriving DecidableEq, Repr

/-- The conditions of R220 with the information they carry. -/
inductive Condition where
  | rxByte (b : Byte)
  | framingError
  | rxOverwrite (lost new : Byte)
  | rxOverflow (b : Byte)
  | spuriousEdge
  deriving DecidableEq, Repr

/-- The values host operations return, at the widths of R88. -/
inductive Returned where
  /-- `AVAIL`'s 8 bits. -/
  | count (v : Byte)
  /-- `TXRDY`'s one bit. -/
  | ready (v : Bit)
  /-- `RECV`'s byte. -/
  | byte (v : Byte)
  deriving DecidableEq, Repr

/-- One entry of the observation trace (R13): a value handed back to the host, or a condition raised. -/
inductive Obs where
  | returned (r : Returned)
  | raised (c : Condition)
  deriving DecidableEq, Repr

/-- The hold the foreground waits in (R11): the operation it will re-test, or the second hold of `DELAY` (R147). -/
inductive Hold where
  | send (b : Byte)
  | recv
  | alarm (d : Word32)
  | delay (d : Word32)
  | delayReturn
  deriving DecidableEq, Repr

/-- Who moves (R7): the foreground, or the environment. -/
inductive Agent where
  | foreground
  | environment
  deriving DecidableEq, Repr

/-- The whole state: every field of 10_state.md, the parameters of R5, and the model's own fields for what R7 to R13 say of
agents, holds and observation. -/
@[ext]
structure State where
  /-- The parameters (R5); no step changes them (R76). -/
  cfg : Config
  /-- Has the first `INIT` run (R251)? The model's own field. -/
  initialized : Bool
  /-- `cnt` (R20). -/
  cnt : Nat
  /-- `top` (R21). -/
  top : Nat
  /-- `cmp_a` (R22). -/
  cmpA : Nat
  /-- `cmp_b` (R23). -/
  cmpB : Nat
  /-- `ie_a` (R24). -/
  ieA : Bool
  /-- `ie_b` (R25). -/
  ieB : Bool
  /-- `edge_ie` (R26). -/
  edgeIe : Bool
  /-- `edge_if` (R27). -/
  edgeIf : Bool
  /-- `tx_pin` (R28). -/
  txPin : Bit
  /-- `rx_pin` (R29), an input. -/
  rxPin : Bit
  /-- `gie` (R30), an input. -/
  gie : Bool
  /-- `tx_state` (R31). -/
  txState : TxState
  /-- `tx_bits` (R32). -/
  txBits : Nat
  /-- `tx_shift` (R33). -/
  txShift : Byte
  /-- `delay_counter` (R34). -/
  delayCounter : Word32
  /-- `tx_os` (R35). -/
  txOs : Nat
  /-- `send_ready` (R36). -/
  sendReady : Bool
  /-- `rx_state` (R37). -/
  rxState : RxState
  /-- `rx_bits` (R38). -/
  rxBits : Nat
  /-- `rx_acc` (R39). -/
  rxAcc : Byte
  /-- `rx_os` (R40). -/
  rxOs : Nat
  /-- `available` (R41), `Single` variant. -/
  available : Available
  /-- `recv_byte` (R42), `Single` variant. -/
  recvByte : Byte
  /-- `buf` (R43), `Ring` variant: the slots that do not hold 0, rising by index. -/
  buf : List Host.Cell
  /-- `head` (R44), `Ring` variant. -/
  head : Nat
  /-- `tail` (R45), `Ring` variant. -/
  tail : Nat
  /-- The hold the foreground is in, if any (R11, R230). The model's own field. -/
  hold : Option Hold
  /-- The command bytes the foreground has still to issue (R84). The model's own field. -/
  program : List Byte
  /-- The environment words still to come (R92). The model's own field. -/
  envQueue : List (BitVec 3)
  /-- A handler the platform is told to run by itself (log 9). The model's own field. -/
  vector : Option (BitVec 2)
  /-- Who moves next, as long as it is said (R7). The model's own field. -/
  turns : List Agent
  /-- The observation trace (R13), oldest first. The model's own field. -/
  trace : List Obs
  deriving DecidableEq, Repr

/-- The one way a step faults. -/
inductive Fault where
  /-- Raised by `memRead` and `memWrite` at an index `>= C`, which R61 gives no behaviour. Unreachable from a state that meets
  R49's invariant. Safe: the model stops. -/
  | ringIndexOutOfRange (i : Nat)
  deriving DecidableEq, Repr

/-- The refusals: R12's list, and words R92 does not define. All are safe: the model gives no successor state. -/
inductive Refusal where
  /-- Raised by an arm of `exec` that has no meaning yet. Safe. -/
  | notModelled (mnemonic : String)
  /-- Raised by every operation when the parameters break R5's constraints (R12): no such block exists. Safe. -/
  | parametersOutOfRange
  /-- Raised by `INIT` with `gie = true` (R210, D35). Safe. -/
  | initWithInterruptsEnabled
  /-- Raised by a host operation other than `INIT` before the first `INIT` (R251, D20). Safe. -/
  | beforeInit
  /-- Raised by `ALARM` and `DELAY` when `whole >= 2^32` (R141, D13). Safe. -/
  | periodCountTooLarge
  /-- Raised by the foreground's fetch of an opcode `0x07 .. 0xFF` (R87, D36). Safe. -/
  | reservedOpcode (op : Byte)
  /-- Raised by the foreground's fetch of a command cut short (R87). Safe. -/
  | truncatedCommand (op : Byte)
  /-- Raised by the environment's fetch of a word R92 does not define (log 17). Safe. -/
  | undefinedEnvironmentWord (w : BitVec 3)
  /-- Raised by the fetch of vector number 0, which is not used (R226; log 9). Safe. -/
  | unusedVector
  deriving DecidableEq, Repr

/-- The state after reset. The block's reset is `INIT` (R250), so this is the table of R50 for the reference configuration
(log 2, log 5), with the inputs where the spec's traces start them, `rx_pin = 1`, `gie = false` (R252; DESIGN CHOICE, log 3:
unsafe), and nothing queued. -/
def State.reset : State :=
  { cfg := Config.reference, initialized := true
    cnt := 0, top := 208, cmpA := 0, cmpB := 0, ieA := false, ieB := false
    edgeIe := true, edgeIf := false
    txPin := 1#1, rxPin := 1#1, gie := false
    txState := .idle, txBits := 0, txShift := 0#8, delayCounter := 0#32, txOs := 1, sendReady := true
    rxState := .idle, rxBits := 0, rxAcc := 0#8, rxOs := 1
    available := .none, recvByte := 0#8
    buf := [], head := 0, tail := 0
    hold := none, program := [], envQueue := [], vector := none, turns := [], trace := [] }

/-- A state before the first `INIT` (R251): every field of the block is unspecified, so any state `junk` supplies them, and
no rule reads them (R51, log 2). -/
def State.powerOn (junk : State) : State := { junk with initialized := false, hold := none }

end Sys2Proof.Machine
end

