-- ==== Sys2Proof/Machine/Operands.lean ====
section
/-! DEFINITION. Operand computations: the arithmetic of the clock (R108), the half-bit offset (R163), the millisecond
conversion and the alarm's offsets (R141, R142), and the ring's index arithmetic (R70, R191). Everything is over the
unbounded naturals with floor division (R14). -/

namespace Sys2Proof.Machine

/-- `(a - b) mod m` with the non-negative remainder of R14, over the naturals. -/
def subMod (a b m : Nat) : Nat := (a + (m - b % m)) % m

/-- `BIT = N * P` (R5). -/
def bitTicks (c : Config) : Nat := c.N * c.P

/-- `H = BIT div 2` (R163). -/
def halfBit (c : Config) : Nat := bitTicks c / 2

/-- The offset `ISR_EDGE` arms channel B with: `H mod P` (R162). -/
def edgeOffset (c : Config) : Nat := halfBit c % c.P

/-- The countdown `ISR_EDGE` loads: `(H div P) + 1` (R162). -/
def edgeCountdown (c : Config) : Nat := halfBit c / c.P + 1

/-- `T = (d * F_TICK) div 1000`: total timer ticks (R141). -/
def delayTicks (c : Config) (d : Word32) : Nat := d.toNat * c.fTick / 1000

/-- `whole = T div BIT` (R141). -/
def wholePeriods (c : Config) (d : Word32) : Nat := delayTicks c d / bitTicks c

/-- `rem = T mod BIT` (R141). -/
def remTicks (c : Config) (d : Word32) : Nat := delayTicks c d % bitTicks c

/-- `whole < 2^32`: the period count fits `delay_counter` (R141). -/
def periodsFit (c : Config) (d : Word32) : Bool := decide (wholePeriods c d < 2 ^ 32)

/-- The offset `ALARM` arms channel A with: `(P - (rem mod P)) mod P` (R142). -/
def alarmOffset (c : Config) (d : Word32) : Nat := (c.P - remTicks c d % c.P) % c.P

/-- The countdown `ALARM` loads: `N - (rem div P)` (R142). -/
def alarmCountdown (c : Config) (d : Word32) : Nat := c.N - remTicks c d / c.P

/-- The next ring index, modulo `C` (R70). -/
def nextIndex (c : Config) (i : Nat) : Nat := (i + 1) % c.C

/-- `(head - tail) mod C`: the count of unread bytes (R191). -/
def unreadCount (c : Config) (head tail : Nat) : Nat := subMod head tail c.C

/-- The sample `s` at bit 7 and the rest one place right: `(s << 7) | (acc >> 1)` (R82, R167). -/
def shiftIn (s : Bit) (acc : Byte) : Byte := (s.setWidth 8 <<< 7) ||| (acc >>> 1)

/-- Bit 0 of a byte, the bit the transmitter drives next (R83, R125). -/
def lowBit (v : Byte) : Bit := v.extractLsb' 0 1

end Sys2Proof.Machine
end

