-- ==== Sys2Proof/WellFormed.lean ====
section
/-! DEFINITION. Which parameters make a block (00_scope.md R5), and which operations a block gives a meaning
(R12, 42_delay_engine.md R141). Every operand field of `Instr` has exactly the bits of its encoding, so there is nothing
else to check of an operation. -/

namespace Sys2Proof

/-- `2 <= P <= 2^CNT_BITS` and `CNT_BITS >= 1` (R5). -/
def Config.periodOk (c : Config) : Bool :=
  decide (2 ≤ c.P) && decide (c.P ≤ 2 ^ c.cntBits) && decide (1 ≤ c.cntBits)

/-- `N >= 1` (R5). -/
def Config.oversamplingOk (c : Config) : Bool := decide (1 ≤ c.N)

/-- `F_TICK >= 1` (R5). -/
def Config.tickRateOk (c : Config) : Bool := decide (1 ≤ c.fTick)

/-- `2 <= C <= 256`, a parameter of the `Ring` variant only (R5). -/
def Config.capacityOk (c : Config) : Bool :=
  match c.rxVariant with
  | .ring => decide (2 ≤ c.C) && decide (c.C ≤ 256)
  | .single => true

/-- Parameters inside R5's constraints. No other block exists (R12). -/
def Config.valid (c : Config) : Bool := c.periodOk && c.oversamplingOk && c.tickRateOk && c.capacityOk

/-- The operations that a block with parameters `c` does not refuse for their operand alone: `ALARM` and `DELAY` need a
period count of 32 bits (R141). -/
def Instr.wellFormed (c : Config) (i : Instr) : Bool :=
  match i with
  | .alarm d | .delay d => Machine.periodsFit c d
  | .init | .avail | .txrdy | .send _ | .recv | .isrEdge | .isrCmpa | .isrCmpb | .tick | .rxline _ | .gie _ => true

end Sys2Proof
end

