-- ==== Sys2Proof/Machine/Ops.lean ====
section
/-! DEFINITION. The named operations over the state: the observation trace (00_scope.md R13, R14), the ring-buffer space
(20_memory.md R61), the BitClock primitives (40_bitclock.md R100 to R104), entering and leaving a handler
(60_exceptions.md R227, R230, R233), holds and refusals (R11, R12), and the guards every operation passes. -/

namespace Sys2Proof.Machine

/-- The outcome of a step of this block. -/
abbrev Result := Host.Outcome State Fault Refusal

/-- Go on with `k` where `r` is a next state; a stop stays the stop it is. -/
def thenDo (r : Result) (k : State → Result) : Result :=
  match r with
  | .next s => k s
  | .fault f => .fault f
  | .refused q => .refused q

/-! ## The observation trace -/

/-- `raise c` (R14): append the event; it changes nothing else. -/
def raise (c : Condition) (s : State) : State := { s with trace := s.trace ++ [.raised c] }

/-- `return v` of a host operation (R14): the value is observed (R13). -/
def giveBack (r : Returned) (s : State) : State := { s with trace := s.trace ++ [.returned r] }

/-! ## The ring-buffer space (R60, R61)

A list of (index, byte) pairs in one canonical form. -/

/-- The ring-buffer space's contents. -/
abbrev Memory := List Host.Cell

/-- What an unlisted slot reads as: 0, the value `INIT` gives every slot (R50). -/
def blankByte : Byte := 0#8

/-- The canonical form: indices strictly rising, no slot listed that holds the blank byte. -/
abbrev Memory.wf (m : Memory) : Prop :=
  m.Pairwise (fun x y => x.1 < y.1) ∧ ∀ c ∈ m, c.2 ≠ blankByte

/-- The byte at one index. -/
def Memory.read (m : Memory) (i : Nat) : Byte :=
  match m with
  | [] => blankByte
  | (k, v) :: rest => if k = i then v else Memory.read rest i

/-- Write the byte at one index, keeping the canonical form. -/
def Memory.write (m : Memory) (i : Nat) (v : Byte) : Memory :=
  match m with
  | [] => if v = blankByte then [] else [(i, v)]
  | (k, w) :: rest =>
    if i < k then (if v = blankByte then (k, w) :: rest else (i, v) :: (k, w) :: rest)
    else if i = k then (if v = blankByte then rest else (i, v) :: rest)
    else (k, w) :: Memory.write rest i v

/-- `MemRead(i, 1)` (R61): go on with the byte; an index `>= C` has no behaviour (log 12). -/
def memRead (i : Nat) (s : State) (k : Byte → Result) : Result :=
  if i < s.cfg.C then k (Memory.read s.buf i) else .fault (.ringIndexOutOfRange i)

/-- `MemWrite(i, 1, v)` (R61): an index `>= C` has no behaviour (log 12). -/
def memWrite (i : Nat) (v : Byte) (s : State) : Result :=
  if i < s.cfg.C then .next { s with buf := Memory.write s.buf i v } else .fault (.ringIndexOutOfRange i)

/-! ## The BitClock primitives -/

/-- `now()` (R104). -/
def now (s : State) : Nat := s.cnt

/-- `setTop(period)` (R100). -/
def setTop (period : Nat) (s : State) : State := { s with top := period }

/-- `armChannel(ch, off)` (R101): `cmp_ch <- (cnt + off) mod P`. -/
def armChannel (ch : Channel) (off : Nat) (s : State) : State :=
  match ch with
  | .A => { s with cmpA := (now s + off) % s.cfg.P }
  | .B => { s with cmpB := (now s + off) % s.cfg.P }

/-- `enableChannel(ch)` (R102). -/
def enableChannel (ch : Channel) (s : State) : State :=
  match ch with
  | .A => { s with ieA := true }
  | .B => { s with ieB := true }

/-- `disableChannel(ch)` (R103): the compare value stays. -/
def disableChannel (ch : Channel) (s : State) : State :=
  match ch with
  | .A => { s with ieA := false }
  | .B => { s with ieB := false }

/-! ## Taking an interrupt, and returning from it -/

/-- Enter a handler in the step of its event (R230): entry saves nothing and changes nothing by itself; a request that is not
delivered (R227) changes nothing. -/
def enterHandler (delivered : Bool) (handler : State → Result) (s : State) : Result :=
  if delivered then handler s else .next s

/-- The end of a handler (R233): return restores nothing and enables nothing by itself. -/
def returnFromHandler (s : State) : Result := .next s

/-! ## Holds and refusals -/

/-- `hold until c` (R11): the body `k` where the condition is true; else the foreground waits, and nothing else changes. -/
def holdUntil (c : Bool) (h : Hold) (s : State) (k : State → Result) : Result :=
  if c then k s else .next { s with hold := some h }

/-- No block has parameters outside R5's constraints: every operation is refused there (R12). -/
def onBlock (s : State) (k : State → Result) : Result :=
  if s.cfg.valid then k s else .refused .parametersOutOfRange

/-- Before the first `INIT` a host operation other than `INIT` is refused (R251). -/
def afterInit (s : State) (k : State → Result) : Result :=
  onBlock s fun s => if s.initialized then k s else .refused .beforeInit

/-- A host operation other than `INIT`: while the foreground holds it performs no other host operation (R11), so the
operation waits its turn in the program, behind the hold (log 6). -/
def hostOp (i : Instr) (s : State) (k : State → Result) : Result :=
  afterInit s fun s =>
    match s.hold with
    | some _ => .next { s with program := commandBytes i ++ s.program }
    | none => k s

/-- An environment step or a handler (R251): before the first `INIT` it does `early`, running no handler; after it, `k`. -/
def blockStep (early : State → State) (s : State) (k : State → Result) : Result :=
  onBlock s fun s => if s.initialized then k s else .next (early s)

end Sys2Proof.Machine
end

