-- ==== Sys2Proof/Machine/Flags.lean ====
section
/-! DEFINITION. Every flag and test the rules compute: matches and interrupt routing (40_bitclock.md R105, R106, 60_exceptions.md
R227), the falling edge (43_rx_engine.md R160), the queue's tests (44_receive_queue.md), and the numeric codes of
30_encoding.md R89 to R91 and 60_exceptions.md R220. -/

namespace Sys2Proof.Machine

/-- A request reaches its handler exactly when its event occurred, its own enable is true and `gie` is true (R227). -/
def delivered (event enable gie : Bool) : Bool := event && enable && gie

/-- A match of a channel (R105): the counter's value before the increment equals the compare value. -/
def channelMatch (ch : Channel) (s : State) : Bool :=
  match ch with
  | .A => decide (s.cnt = s.cmpA)
  | .B => decide (s.cnt = s.cmpB)

/-- `ie_ch` (R24, R25). -/
def channelEnabled (ch : Channel) (s : State) : Bool :=
  match ch with
  | .A => s.ieA
  | .B => s.ieB

/-- `fire_ch` of `TICK` (R106). -/
def fires (ch : Channel) (s : State) : Bool := delivered (channelMatch ch s) (channelEnabled ch s) s.gie

/-- A falling edge of the receive line (R160): high before, low now. -/
def fallingEdge (old l : Bit) : Bool := decide (old = 1#1) && decide (l = 0#1)

/-- The edge sensor's request is delivered (R161). -/
def edgeDelivered (s : State) : Bool := delivered s.edgeIf s.edgeIe s.gie

/-- `(head + 1) mod C = tail`: the ring is full (R196). -/
def ringFull (s : State) : Bool := decide (nextIndex s.cfg s.head = s.tail)

/-- `head = tail`: the ring is empty (R49 item 7). -/
def ringEmpty (s : State) : Bool := decide (s.head = s.tail)

/-- The condition `RECV` holds for (R192, R193). -/
def byteWaiting (s : State) : Bool :=
  match s.cfg.rxVariant with
  | .single => decide (s.available = .byte)
  | .ring => !ringEmpty s

/-- `tx_state` codes (R89). -/
def TxState.code (t : TxState) : Nat :=
  match t with
  | .idle => 0
  | .sendStart => 1
  | .sendData => 2
  | .sendStop => 3
  | .finishing => 4
  | .timedDelay => 5

/-- `rx_state` codes (R90). -/
def RxState.code (t : RxState) : Nat :=
  match t with
  | .idle => 0
  | .armedForStart => 1
  | .sampleData => 2
  | .checkStop => 3

/-- `available` codes (R91). -/
def Available.code (a : Available) : Nat :=
  match a with
  | .none => 0
  | .byte => 1
  | .framingError => 2

/-- Condition codes (R220). -/
def Condition.code (c : Condition) : Nat :=
  match c with
  | .rxByte _ => 0
  | .framingError => 1
  | .rxOverwrite _ _ => 2
  | .rxOverflow _ => 3
  | .spuriousEdge => 4

/-- What `AVAIL` returns: the code of `available` (R190), or the count of unread bytes (R191). -/
def availValue (s : State) : Byte :=
  match s.cfg.rxVariant with
  | .single => BitVec.ofNat 8 s.available.code
  | .ring => BitVec.ofNat 8 (unreadCount s.cfg s.head s.tail)

/-- What `TXRDY` returns: `send_ready` as one bit (R88, R120). -/
def readyBit (s : State) : Bit := BitVec.ofBool s.sendReady

end Sys2Proof.Machine
end

