-- ==== Sys2Proof/Machine/ReceiveQueue.lean ====
section
/-! DEFINITION. ReceiveQueue (44_receive_queue.md): `AVAIL`, `RECV`, `Deliver` and `RecordFramingError`, in both variants. -/

namespace Sys2Proof.Machine

/-- `AVAIL` (R190, R191). -/
def execAvail (s : State) : Result :=
  hostOp .avail s fun s => .next (giveBack (.count (availValue s)) s)

/-- The atomic body of `RECV`, after its hold: `Single` (R192), `Ring` (R193). -/
def recvBody (s : State) : Result :=
  match s.cfg.rxVariant with
  | .single => .next (giveBack (.byte s.recvByte) { s with available := .none })
  | .ring => memRead s.tail s fun v => .next (giveBack (.byte v) { s with tail := nextIndex s.cfg s.tail })

/-- `RECV` (R192, R193). -/
def execRecv (s : State) : Result :=
  hostOp .recv s fun s => holdUntil (byteWaiting s) .recv s recvBody

/-- `Deliver(b)`, `Single` variant (R195): an unread byte is overwritten. -/
def deliverSingle (b : Byte) (s : State) : State :=
  let t := if s.available = .byte then raise (.rxOverwrite s.recvByte b) s else s
  raise (.rxByte b) { t with recvByte := b, available := .byte }

/-- `Deliver(b)`, `Ring` variant (R196): dropped when full; else the slot first, then the index (R74). -/
def deliverRing (b : Byte) (s : State) : Result :=
  if ringFull s then .next (raise (.rxOverflow b) s)
  else thenDo (memWrite s.head b s) fun t => .next (raise (.rxByte b) { t with head := nextIndex t.cfg t.head })

/-- `Deliver(b)` (R194). -/
def deliver (b : Byte) (s : State) : Result :=
  match s.cfg.rxVariant with
  | .single => .next (deliverSingle b s)
  | .ring => deliverRing b s

/-- `RecordFramingError()`: `Single` (R198), `Ring` (R199). -/
def recordFramingError (s : State) : State :=
  match s.cfg.rxVariant with
  | .single => raise .framingError { s with available := .framingError }
  | .ring => raise .framingError s

end Sys2Proof.Machine
end

