-- ==== Sys2Proof/Machine/RxEngine.lean ====
section
/-! DEFINITION. RxEngine and EdgeSensor (43_rx_engine.md): `RXLINE`, the edge sensor's handler, and the channel-B handler with
its arms. -/

namespace Sys2Proof.Machine

/-- The edge sensor's handler (R162). -/
def isrEdge (s : State) : State :=
  let t := { s with edgeIf := false }
  if t.rxPin = 0#1 then
    let u := armChannel .B (edgeOffset t.cfg) t
    let v := enableChannel .B { u with rxOs := edgeCountdown t.cfg }
    { v with edgeIe := false, rxState := .armedForStart }
  else raise .spuriousEdge t

/-- `ISR_EDGE` (R162). Before the first `INIT` no handler runs (R251, log 10). -/
def execIsrEdge (s : State) : Result := blockStep id s fun s => returnFromHandler (isrEdge s)

/-- The line takes level `l`; a falling edge is latched whatever the masks (R160). -/
def setLine (l : Bit) (s : State) : State :=
  { s with rxPin := l, edgeIf := if fallingEdge s.rxPin l then true else s.edgeIf }

/-- A delivered edge request runs the handler in this same step (R160, R161, R212). -/
def serveEdge (s : State) : Result :=
  enterHandler (edgeDelivered s) (fun s => returnFromHandler (isrEdge s)) s

/-- `RXLINE(l)` (R160). Before the first `INIT` it changes the input only (R251). -/
def execRxline (l : Bit) (s : State) : Result :=
  blockStep (fun s => { s with rxPin := l }) s fun s => serveEdge (setLine l s)

/-- Arm `ArmedForStart`: the start-bit sample is discarded (R166). -/
def rxArmedForStart (s : State) : State := { s with rxBits := 8, rxState := .sampleData }

/-- Arm `SampleData`: one data bit (R167). -/
def rxSampleData (smp : Bit) (s : State) : State :=
  let t := { s with rxAcc := shiftIn smp s.rxAcc, rxBits := s.rxBits - 1 }
  if t.rxBits = 0 then { t with rxState := .checkStop } else t

/-- The last four lines of arm `CheckStop`: channel B off, the latched edge discarded, the sensor on, `Idle` (R168). -/
def rxRelease (s : State) : State :=
  { disableChannel .B s with edgeIf := false, edgeIe := true, rxState := .idle }

/-- Arm `CheckStop`: the stop bit (R168). -/
def rxCheckStop (smp : Bit) (s : State) : Result :=
  thenDo (if smp = 1#1 then deliver s.rxAcc s else .next (recordFramingError s)) fun t => .next (rxRelease t)

/-- One advance of the receive state machine with the sample `smp` (R164 to R168). -/
def rxAdvance (smp : Bit) (s : State) : Result :=
  match s.rxState with
  | .idle => .next s
  | .armedForStart => .next (rxArmedForStart s)
  | .sampleData => .next (rxSampleData smp s)
  | .checkStop => rxCheckStop smp s

/-- The channel-B handler: the sample first, then the oversampling countdown, then an advance (R164). -/
def isrCmpb (s : State) : Result :=
  let smp := s.rxPin
  if 1 < s.rxOs then .next { s with rxOs := s.rxOs - 1 } else rxAdvance smp { s with rxOs := s.cfg.N }

/-- `ISR_CMPB` (R164). Before the first `INIT` no handler runs (R251, log 10). -/
def execIsrCmpb (s : State) : Result := blockStep id s fun s => thenDo (isrCmpb s) returnFromHandler

end Sys2Proof.Machine
end

