-- ==== Sys2Proof/Machine/DelayEngine.lean ====
section
/-! DEFINITION. DelayEngine (42_delay_engine.md): `ALARM`, `DELAY` and the `TimedDelay` arm of the channel-A handler. -/

namespace Sys2Proof.Machine

/-- The atomic body of `ALARM d`, after its hold (R142). -/
def alarmBody (d : Word32) (s : State) : State :=
  let t := armChannel .A (alarmOffset s.cfg d) s
  enableChannel .A
    { t with
      txOs := alarmCountdown s.cfg d
      delayCounter := BitVec.ofNat 32 (wholePeriods s.cfg d)
      txState := .timedDelay
      sendReady := false }

/-- A period count that does not fit 32 bits is refused (R141). The operand alone decides it, so it is tested before the
hold (log 14). -/
def periodsOrRefuse (d : Word32) (s : State) (k : State → Result) : Result :=
  if periodsFit s.cfg d then k s else .refused .periodCountTooLarge

/-- `ALARM d` (R142). -/
def execAlarm (d : Word32) (s : State) : Result :=
  hostOp (.alarm d) s fun s =>
    periodsOrRefuse d s fun s =>
      holdUntil s.sendReady (.alarm d) s fun s => .next (alarmBody d s)

/-- `DELAY d` (R147): `ALARM d` with its own hold, then a second hold until `send_ready`. -/
def execDelay (d : Word32) (s : State) : Result :=
  hostOp (.delay d) s fun s =>
    periodsOrRefuse d s fun s =>
      holdUntil s.sendReady (.delay d) s fun s => .next { alarmBody d s with hold := some .delayReturn }

/-- The return of `DELAY` after its second hold (R147). -/
def delayReturn (s : State) : Result :=
  afterInit s fun s => holdUntil s.sendReady .delayReturn s fun s => .next s

/-- The guarded decrement of `delay_counter`: it stays 0 at 0 (R145). -/
def delayCountdown (n : Word32) : Word32 := if 0 < n.toNat then n - 1#32 else n

/-- Arm `TimedDelay` of `ISR_CMPA` (R145). -/
def txTimedDelay (s : State) : State :=
  let t := { s with delayCounter := delayCountdown s.delayCounter }
  if t.delayCounter = 0#32 then disableChannel .A { t with sendReady := true, txState := .idle } else t

end Sys2Proof.Machine
end

