-- ==== Sys2Proof/Machine/TxEngine.lean ====
section
/-! DEFINITION. TxEngine (41_tx_engine.md): `TXRDY`, `SEND` and the channel-A handler with its arms. -/

namespace Sys2Proof.Machine

/-- `TXRDY` (R120). -/
def execTxrdy (s : State) : Result :=
  hostOp .txrdy s fun s => .next (giveBack (.ready (readyBit s)) s)

/-- The atomic body of `SEND b`, after its hold (R121). -/
def sendBody (b : Byte) (s : State) : State :=
  let t := armChannel .A 0 s
  enableChannel .A { t with txShift := b, txState := .sendStart, sendReady := false, txOs := 1 }

/-- `SEND b` (R121). -/
def execSend (b : Byte) (s : State) : Result :=
  hostOp (.send b) s fun s => holdUntil s.sendReady (.send b) s fun s => .next (sendBody b s)

/-- Arm `SendStart`: drive the start bit (R124). -/
def txSendStart (s : State) : State := { s with txPin := 0#1, txBits := 8, txState := .sendData }

/-- Arm `SendData`: drive one data bit, least significant first (R125). -/
def txSendData (s : State) : State :=
  let t := { s with txPin := lowBit s.txShift, txShift := s.txShift >>> 1, txBits := s.txBits - 1 }
  if t.txBits = 0 then { t with txState := .sendStop } else t

/-- Arm `SendStop`: drive the stop bit (R126). -/
def txSendStop (s : State) : State := { s with txPin := 1#1, txState := .finishing }

/-- Arm `Finishing`: release the engine (R127). -/
def txFinishing (s : State) : State := disableChannel .A { s with sendReady := true, txState := .idle }

/-- One advance of the transmit state machine (R122 to R127, R145). -/
def txAdvance (s : State) : State :=
  match s.txState with
  | .idle => s
  | .sendStart => txSendStart s
  | .sendData => txSendData s
  | .sendStop => txSendStop s
  | .finishing => txFinishing s
  | .timedDelay => txTimedDelay s

/-- The channel-A handler: the oversampling countdown, then an advance (R122). -/
def isrCmpa (s : State) : State :=
  if 1 < s.txOs then { s with txOs := s.txOs - 1 } else txAdvance { s with txOs := s.cfg.N }

/-- `ISR_CMPA` (R122). Before the first `INIT` no handler runs (R251, log 10). -/
def execIsrCmpa (s : State) : Result := blockStep id s fun s => returnFromHandler (isrCmpa s)

end Sys2Proof.Machine
end

