-- ==== Sys2Proof/Machine/BitClock.lean ====
section
/-! DEFINITION. BitClock's environment step `TICK` (40_bitclock.md R106). Its primitives stand in Ops.lean. -/

namespace Sys2Proof.Machine

/-- The counter's increment: `(cnt + 1) mod top` (R106). -/
def countUp (s : State) : State := { s with cnt := (s.cnt + 1) % s.top }

/-- `TICK` (R106): both requests are computed from the state at the start of the step; channel A's handler runs first
(R228). -/
def tickBody (s : State) : Result :=
  let fireA := fires .A s
  let fireB := fires .B s
  let t := countUp s
  thenDo (enterHandler fireA (fun t => returnFromHandler (isrCmpa t)) t) fun u =>
    enterHandler fireB (fun u => thenDo (isrCmpb u) returnFromHandler) u

/-- `TICK` (R106). Before the first `INIT` it does nothing (R251). -/
def execTick (s : State) : Result := blockStep id s tickBody

end Sys2Proof.Machine
end

