-- ==== Sys2Proof/Machine/System.lean ====
section
/-! DEFINITION. System operations (45_system.md): `INIT`, the block's reset, and the environment step `GIE`. -/

namespace Sys2Proof.Machine

/-- The state `INIT` leaves (R50, R210). `rx_pin`, `gie` and the inputs still to come keep their values. The fields of the
variant that is not built do not exist and are put to the values of R50 too (log 15). A hold is given up (log 6). -/
def initState (s : State) : State :=
  let clock := { setTop s.cfg.P s with cnt := 0, cmpA := 0, cmpB := 0 }
  let masked := disableChannel .B (disableChannel .A clock)
  { masked with
    initialized := true, hold := none
    txPin := 1#1
    txState := .idle, txBits := 0, txShift := 0#8, delayCounter := 0#32, txOs := 1, sendReady := true
    rxState := .idle, rxBits := 0, rxAcc := 0#8, rxOs := 1
    available := .none, recvByte := 0#8
    head := 0, tail := 0, buf := []
    edgeIf := false, edgeIe := true }

/-- `INIT` (R210, R211, R253): refused with interrupts enabled; from any other state it gives the state of R50. -/
def execInit (s : State) : Result :=
  onBlock s fun s => if s.gie then .refused .initWithInterruptsEnabled else .next (initState s)

/-- `GIE(v)` (R212): a latched edge is served now. Before the first `INIT` it changes the input only (R251). -/
def execGie (v : Bit) (s : State) : Result :=
  blockStep (fun s => { s with gie := decide (v = 1#1) }) s fun s => serveEdge { s with gie := decide (v = 1#1) }

end Sys2Proof.Machine
end

