-- ==== Sys2Proof/Machine/Dispatch.lean ====
section
/-! DEFINITION. One arm per operation: each calls its own meaning. -/

namespace Sys2Proof.Machine

def exec (i : Instr) (s : State) : Host.Outcome State Fault Refusal :=
  match i with
  | .init => Sys2Proof.Machine.execInit s
  | .avail => Sys2Proof.Machine.execAvail s
  | .txrdy => Sys2Proof.Machine.execTxrdy s
  | .send b => Sys2Proof.Machine.execSend b s
  | .recv => Sys2Proof.Machine.execRecv s
  | .alarm d => Sys2Proof.Machine.execAlarm d s
  | .delay d => Sys2Proof.Machine.execDelay d s
  | .isrEdge => Sys2Proof.Machine.execIsrEdge s
  | .isrCmpa => Sys2Proof.Machine.execIsrCmpa s
  | .isrCmpb => Sys2Proof.Machine.execIsrCmpb s
  | .tick => Sys2Proof.Machine.execTick s
  | .rxline l => Sys2Proof.Machine.execRxline l s
  | .gie v => Sys2Proof.Machine.execGie v s

end Sys2Proof.Machine
end

