-- ==== Sys2Proof/Machine/Fetch.lean ====
section
/-! DEFINITION. What moves next (00_scope.md R7, R11): the block fetches no instructions (R46), so the labels of its steps come
from outside: the foreground's command bytes and the environment's words, in the order `turns` says (log 1). -/

namespace Sys2Proof.Machine

/-- One move of the machine, and the state it is made from. -/
inductive Move where
  /-- Perform an operation. -/
  | issue (i : Instr) (s : State)
  /-- The foreground re-tests the hold it was in (R11); the hold is taken out of the state. -/
  | resume (h : Hold) (s : State)
  /-- The foreground has nothing to issue. -/
  | rest (s : State)
  /-- The word fetched is no operation. -/
  | reject (r : Refusal)
  deriving DecidableEq, Repr

/-- The condition of a hold (R121, R142, R147, R192, R193). -/
def holdLifted (h : Hold) (s : State) : Bool :=
  match h with
  | .send _ | .alarm _ | .delay _ | .delayReturn => s.sendReady
  | .recv => byteWaiting s

/-- The foreground can do something now: its hold is lifted, or it holds nothing and has a command to issue. -/
def foregroundCanMove (s : State) : Bool :=
  match s.hold with
  | some h => holdLifted h s
  | none => !s.program.isEmpty

/-- Who moves: as `turns` says; where it says nothing, the foreground if it can, else the environment (DESIGN CHOICE, log 1:
every other interleaving of R7 is had by filling `turns`). -/
def mover (s : State) : Agent :=
  match s.turns with
  | a :: _ => a
  | [] => if foregroundCanMove s then .foreground else .environment

/-- The state once the turn is taken. -/
def takeTurn (s : State) : State := { s with turns := s.turns.tail }

/-- The refusal of a command that is none (R87). -/
def rejectCommand (e : DecodeError) (s : State) : Move :=
  match e with
  | .empty => .rest s
  | .reservedOpcode op => .reject (.reservedOpcode op)
  | .truncated op => .reject (.truncatedCommand op)

/-- The foreground's move (R11): re-test its hold, or issue its next command. -/
def foregroundMove (s : State) : Move :=
  match s.hold with
  | some h => .resume h { s with hold := none }
  | none =>
    match decodeCommand s.program with
    | .command i rest => .issue i { s with program := rest }
    | .bad e => rejectCommand e s

/-- The environment's move (R7): its next word; with none queued, one tick passes (DESIGN CHOICE, log 1). -/
def environmentMove (s : State) : Move :=
  match s.envQueue with
  | [] => .issue .tick s
  | w :: rest =>
    match decodeEnv w with
    | some i => .issue i { s with envQueue := rest }
    | none => .reject (.undefinedEnvironmentWord w)

/-- A handler run by itself, where the probing device `vector` asks for it (log 9). -/
def vectorMove (v : BitVec 2) (s : State) : Move :=
  match decodeVector v with
  | some i => .issue i { s with vector := none }
  | none => .reject .unusedVector

/-- The next move of the machine. -/
def nextMove (s : State) : Move :=
  match s.vector with
  | some v => vectorMove v s
  | none =>
    match mover s with
    | .foreground => foregroundMove (takeTurn s)
    | .environment => environmentMove (takeTurn s)

/-- The foreground re-tests the hold it was in: the operation's own test and body again (R11), or `DELAY`'s return (R147). -/
def resumeHold (h : Hold) (s : State) : Result :=
  match h with
  | .send b => execSend b s
  | .recv => execRecv s
  | .alarm d => execAlarm d s
  | .delay d => execDelay d s
  | .delayReturn => delayReturn s

/-- Make a move. -/
def perform (m : Move) : Result :=
  match m with
  | .issue i s => exec i s
  | .resume h s => resumeHold h s
  | .rest s => onBlock s fun s => .next s
  | .reject r => .refused r

/-- `s` with a word placed where the machine takes its next operation from, and the turn that takes it (log 16). A command is
the foreground's next, so the foreground is in no hold. -/
def placeCode (c : Code) (s : State) : State :=
  match c with
  | .command bs =>
    { s with vector := none, hold := none, turns := .foreground :: s.turns, program := bs ++ s.program }
  | .environment w => { s with vector := none, turns := .environment :: s.turns, envQueue := w :: s.envQueue }
  | .vector v => { s with vector := some v }

end Sys2Proof.Machine
end

