-- ==== Sys2Proof/Machine/Step.lean ====
section
/-! DEFINITION. One step of the machine (00_scope.md R7), and the placing of an operation for the next step. -/

namespace Sys2Proof.Machine

/-- One step: the next move, made. -/
def step (s : State) : Host.Outcome State Fault Refusal := perform (nextMove s)

/-- `s` with the word `w` of a table row of `nbits` bits placed so that the very next step runs it (log 16). -/
def State.withFetchWord (s : State) (nbits w : Nat) : State := placeCode (tableCode nbits w) s

end Sys2Proof.Machine
end

