-- ==== Sys2Proof/Safety.lean ====
section
/-! DEFINITION. The terms claims are made in: kinds of operation, runs of environment steps, the invariants of 10_state.md R49,
what one side of the block leaves alone (20_memory.md R73), the wire frame (30_encoding.md R81) and the queue as a list. -/

namespace Sys2Proof.Machine

/-! ## Kinds of operation (R7) -/

/-- The seven host operations (R9). -/
def isHostOp (i : Instr) : Bool :=
  match i with
  | .init | .avail | .txrdy | .send _ | .recv | .alarm _ | .delay _ => true
  | .isrEdge | .isrCmpa | .isrCmpb | .tick | .rxline _ | .gie _ => false

/-- The environment steps that move neither the gate nor the foreground: `TICK` and `RXLINE`. -/
def isTickOrLine (i : Instr) : Bool :=
  match i with
  | .tick | .rxline _ => true
  | .init | .avail | .txrdy | .send _ | .recv | .alarm _ | .delay _ | .isrEdge | .isrCmpa | .isrCmpb | .gie _ => false

/-! ## Conditions on a state -/

/-- A block that has been initialized: operations run (R5, R251). -/
abbrev Live (s : State) : Prop := s.cfg.valid = true ∧ s.initialized = true

/-- The foreground of a live block is in no hold: it can perform a host operation (R11). -/
abbrev Ready (s : State) : Prop := Live s ∧ s.hold = none

/-! ## The invariants of R49 -/

/-- Items 1, 2, 4 and the range of `tx_bits` (R32). -/
abbrev InvTx (s : State) : Prop :=
  (s.sendReady = true ↔ s.txState = .idle) ∧ (s.ieA = true ↔ s.txState ≠ .idle) ∧
  (s.txState = .sendData → 1 ≤ s.txBits) ∧ s.txBits ≤ 8

/-- Items 3, 4 and the range of `rx_bits` (R38). -/
abbrev InvRx (s : State) : Prop :=
  (s.rxState = .idle ↔ s.edgeIe = true) ∧ (s.edgeIe = true ↔ s.ieB = false) ∧
  (s.rxState = .sampleData → 1 ≤ s.rxBits) ∧ s.rxBits ≤ 8

/-- Item 5. -/
abbrev InvClock (s : State) : Prop :=
  s.top = s.cfg.P ∧ s.cnt < s.cfg.P ∧ s.cmpA < s.cfg.P ∧ s.cmpB < s.cfg.P

/-- Item 6. -/
abbrev InvCountdown (s : State) : Prop :=
  1 ≤ s.txOs ∧ s.txOs ≤ s.cfg.N ∧ 1 ≤ s.rxOs ∧ s.rxOs ≤ s.cfg.N

/-- Item 7: the indices in range, at most `C - 1` bytes held, `head = tail` exactly when empty, `(head + 1) mod C = tail`
exactly when full; and no slot outside `0 .. C-1` (R60). -/
abbrev InvRing (s : State) : Prop :=
  s.cfg.rxVariant = .ring →
    s.head < s.cfg.C ∧ s.tail < s.cfg.C ∧ unreadCount s.cfg s.head s.tail ≤ s.cfg.C - 1 ∧
    (s.head = s.tail ↔ unreadCount s.cfg s.head s.tail = 0) ∧
    (nextIndex s.cfg s.head = s.tail ↔ unreadCount s.cfg s.head s.tail = s.cfg.C - 1) ∧
    ∀ c ∈ s.buf, c.1 < s.cfg.C

/-- Item 8. -/
abbrev InvEdge (s : State) : Prop := s.edgeIf = true → s.edgeIe = false ∨ s.gie = false

/-- All items of R49, which hold after the first `INIT`. -/
abbrev InvFields (s : State) : Prop :=
  InvTx s ∧ InvRx s ∧ InvClock s ∧ InvCountdown s ∧ InvRing s ∧ InvEdge s

/-- The invariant every step keeps: parameters inside R5, the ring-buffer space in canonical form, and, after the first `INIT`,
R49. -/
abbrev Invariant (s : State) : Prop :=
  s.cfg.valid = true ∧ Memory.wf s.buf ∧ (s.initialized = true → InvFields s)

/-- A live state that meets the invariant, with interrupts on. -/
abbrev Running (s : State) : Prop := Invariant s ∧ s.initialized = true ∧ s.gie = true

/-! ## What is left alone (R73) -/

/-- The transmit fields (R22, R24, R28, R31 to R36) are the same. -/
abbrev SameTransmit (s t : State) : Prop :=
  t.cmpA = s.cmpA ∧ t.ieA = s.ieA ∧ t.txPin = s.txPin ∧ t.txState = s.txState ∧ t.txBits = s.txBits ∧
  t.txShift = s.txShift ∧ t.delayCounter = s.delayCounter ∧ t.txOs = s.txOs ∧ t.sendReady = s.sendReady

/-- The receiver's fields (R23, R25 to R27, R29, R37 to R40) are the same. -/
abbrev SameReceiver (s t : State) : Prop :=
  t.cmpB = s.cmpB ∧ t.ieB = s.ieB ∧ t.edgeIe = s.edgeIe ∧ t.edgeIf = s.edgeIf ∧ t.rxPin = s.rxPin ∧
  t.rxState = s.rxState ∧ t.rxBits = s.rxBits ∧ t.rxAcc = s.rxAcc ∧ t.rxOs = s.rxOs

/-- Every slot of the ring-buffer space reads as before. -/
abbrev SameMemory (s t : State) : Prop := ∀ i, Memory.read t.buf i = Memory.read s.buf i

/-- The receive buffer (R41 to R45) is the same. -/
abbrev SameQueue (s t : State) : Prop :=
  t.available = s.available ∧ t.recvByte = s.recvByte ∧ t.head = s.head ∧ t.tail = s.tail ∧ SameMemory s t

/-- The clock's own fields (R20, R21) are the same. -/
abbrev SameClock (s t : State) : Prop := t.cnt = s.cnt ∧ t.top = s.top

/-- The parameters, the gate and `initialized` are the same. -/
abbrev SamePlatform (s t : State) : Prop := t.cfg = s.cfg ∧ t.gie = s.gie ∧ t.initialized = s.initialized

/-- The foreground's hold and the inputs still to come are the same. -/
abbrev SameInputs (s t : State) : Prop :=
  t.hold = s.hold ∧ t.program = s.program ∧ t.envQueue = s.envQueue ∧ t.vector = s.vector ∧ t.turns = s.turns

/-! ## The wire frame and the queue -/

/-- The level of bit period `j` of the frame of byte `b` (R81), the idle level after it. -/
def frameBit (b : Byte) (j : Nat) : Bit :=
  if j = 0 then 0#1 else if j ≤ 8 then b.extractLsb' (j - 1) 1 else 1#1

/-- The unread bytes of the ring, oldest first (R197). -/
def contents (s : State) : List Byte :=
  (List.range (unreadCount s.cfg s.head s.tail)).map fun k => Memory.read s.buf ((s.tail + k) % s.cfg.C)

/-- What `Deliver(b)` does between `s` and `t` (R195, R196): the byte becomes the `Single` variant's, or is appended to a ring
with room, or is dropped by a full one; the trace gets the condition. -/
def Delivered (b : Byte) (s t : State) : Prop :=
  match s.cfg.rxVariant with
  | .single =>
    t.recvByte = b ∧ t.available = .byte ∧ t.head = s.head ∧ t.tail = s.tail ∧ SameMemory s t ∧
    t.trace = s.trace ++ (if s.available = .byte then [.raised (.rxOverwrite s.recvByte b)] else []) ++ [.raised (.rxByte b)]
  | .ring =>
    t.recvByte = s.recvByte ∧ t.available = s.available ∧ t.tail = s.tail ∧
    (if (s.head + 1) % s.cfg.C = s.tail then
      t.head = s.head ∧ SameMemory s t ∧ t.trace = s.trace ++ [.raised (.rxOverflow b)]
    else
      t.head = (s.head + 1) % s.cfg.C ∧ Memory.read t.buf s.head = b ∧
      (∀ i, i ≠ s.head → Memory.read t.buf i = Memory.read s.buf i) ∧ t.trace = s.trace ++ [.raised (.rxByte b)])

/-- What `RecordFramingError()` does between `s` and `t` (R198, R199): no byte is delivered. -/
def FramingErrorRecorded (s t : State) : Prop :=
  t.recvByte = s.recvByte ∧ t.head = s.head ∧ t.tail = s.tail ∧ SameMemory s t ∧
  t.available = (match s.cfg.rxVariant with | .single => .framingError | .ring => s.available) ∧
  t.trace = s.trace ++ [.raised .framingError]

/-- The receiver is back where it waits for a start edge (R168). -/
abbrev ReceiverIdle (t : State) : Prop :=
  t.rxState = .idle ∧ t.ieB = false ∧ t.edgeIe = true ∧ t.edgeIf = false

/-! ## Runs -/

/-- `n` `TICK` steps in a row. -/
def ticks : Nat → State → Result
  | 0, s => .next s
  | n + 1, s => thenDo (ticks n s) (exec .tick)

/-- The operations of a list, one after another. -/
def runAll : List Instr → State → Result
  | [], s => .next s
  | i :: rest, s => thenDo (exec i s) (runAll rest)

/-- `n` ticks, the receive line taking level `line k` before tick `k`. -/
def driveLine (line : Nat → Bit) : Nat → State → Result
  | 0, s => .next s
  | n + 1, s => thenDo (driveLine line n s) fun t => thenDo (exec (.rxline (line (n + 1))) t) (exec .tick)

/-- The tick in which a delay period ends (R146): `t1 + (max(whole, 1) - 1) * BIT`, with
`t1 = ((-rem) mod P) + 1 + (N - rem div P - 1) * P`. -/
def delayEnd (c : Config) (d : Word32) : Nat :=
  (subMod 0 (remTicks c d) c.P + 1 + (c.N - remTicks c d / c.P - 1) * c.P) + (max (wholePeriods c d) 1 - 1) * bitTicks c

/-- A step is safe when it does not fault. -/
def SafeResult (r : Result) : Prop := ∀ f, r ≠ .fault f

end Sys2Proof.Machine
end

