-- ==== Sys2Proof/Certificates/Slice0/Obligations.lean ====
section
/-! DEFINITION. The statements about the block, for the provers. -/

open Sys2Proof Sys2Proof.Machine

/-! ## Encodings (30_encoding.md) -/

/-- Words written out from the encodings of R84 to R86 and R92 stand for the operations the spec says (95_test_vectors.md Y5
to Y9). -/
def Obligations.SampleWordsDecode : Prop :=
  decode (.command [0x00#8]) = some .init ∧ decode (.command [0x01#8]) = some .avail ∧
  decode (.command [0x02#8]) = some .txrdy ∧ decode (.command [0x04#8]) = some .recv ∧
  decode (.command [0x03#8, 0x55#8]) = some (.send 0x55#8) ∧
  decode (.command [0x05#8, 0xE8#8, 0x03#8, 0x00#8, 0x00#8]) = some (.alarm 1000#32) ∧
  decode (.command [0x06#8, 0x01#8, 0x00#8, 0x00#8, 0x00#8]) = some (.delay 1#32) ∧
  decode (.command [0x07#8]) = none ∧ decode (.command [0xFF#8]) = none ∧
  decode (.command [0x05#8, 0xE8#8, 0x03#8]) = none ∧
  decode (.vector 0b01#2) = some .isrEdge ∧ decode (.vector 0b10#2) = some .isrCmpa ∧
  decode (.vector 0b11#2) = some .isrCmpb ∧ decode (.environment 0b000#3) = some .tick ∧
  decode (.environment 0b001#3) = some (.rxline 0#1) ∧ decode (.environment 0b101#3) = some (.rxline 1#1) ∧
  decode (.environment 0b010#3) = some (.gie 0#1) ∧ decode (.environment 0b110#3) = some (.gie 1#1)

/-- R84, R85, R86 on the byte stream: the opcode byte says the operation and the format, and the operand is read from the bytes
that follow, `imm8` whole and `imm32` least significant byte first, unsigned. The encoding is the spec's own choice D17. -/
def Obligations.OpcodeMapOfCommands : Prop :=
  ∀ rest : List Byte,
    decodeCommand (0x00#8 :: rest) = .command .init rest ∧
    decodeCommand (0x01#8 :: rest) = .command .avail rest ∧
    decodeCommand (0x02#8 :: rest) = .command .txrdy rest ∧
    (∀ b, decodeCommand (0x03#8 :: b :: rest) = .command (.send b) rest) ∧
    decodeCommand (0x04#8 :: rest) = .command .recv rest ∧
    ∀ b0 b1 b2 b3 : Byte, ∃ d : Word32,
      d.toNat = b0.toNat + 256 * b1.toNat + 65536 * b2.toNat + 16777216 * b3.toNat ∧
      decodeCommand (0x05#8 :: b0 :: b1 :: b2 :: b3 :: rest) = .command (.alarm d) rest ∧
      decodeCommand (0x06#8 :: b0 :: b1 :: b2 :: b3 :: rest) = .command (.delay d) rest

/-- Decoding an operation's word gives the operation back, in a byte stream too, and every word that decodes is the word of
the operation it decodes to: no two words mean the same operation and no bit of a word is dropped. For `TICK` the second half is
the model's choice (log 17): R92 gives it two bits only, and the model has bit 2 of its environment word 0 and refuses 100. -/
def Obligations.DecodeAndEncodeAgree : Prop :=
  (∀ i, decode (encode i) = some i) ∧
  (∀ c i, decode c = some i → c = encode i) ∧
  (∀ i bs rest, encode i = .command bs → decodeCommand (bs ++ rest) = .command i rest) ∧
  ∀ bs i rest, decodeCommand bs = .command i rest → ∃ word, encode i = .command word ∧ bs = word ++ rest

/-- The table word of every operation, at its row's width, decodes to the operation. The spec's patterns of the three kinds of
word overlap: telling them apart by the row's width, with the 2-bit word 00 read as `TICK`, is the model's choice (log 16). -/
def Obligations.TableWordsDecode : Prop := ∀ i, decodeTableWord (tableWidth i) (tableBits i) = some i

/-- R87: opcodes 0x07 to 0xFF are reserved and every lower one is not; a string shorter than its format is no command; and a
foreground that comes to either is refused, with no next state. -/
def Obligations.ReservedOpcodesAreRefused : Prop :=
  (∀ op rest, 7 ≤ op.toNat → decodeCommand (op :: rest) = .bad (.reservedOpcode op)) ∧
  (∀ op rest, op.toNat < 7 → rest.length + 1 < commandLength op → decodeCommand (op :: rest) = .bad (.truncated op)) ∧
  (∀ op rest, op.toNat < 7 → commandLength op ≤ rest.length + 1 → ∃ i t, decodeCommand (op :: rest) = .command i t) ∧
  ∀ (s : State) op rest, s.vector = none → mover s = .foreground → s.hold = none → s.program = op :: rest →
    (7 ≤ op.toNat → step s = .refused (.reservedOpcode op)) ∧
    (op.toNat < 7 → rest.length + 1 < commandLength op → step s = .refused (.truncatedCommand op))

/-- R92: vectors 1, 2, 3 are the handlers, selectors 0, 1, 2 the environment steps with their one-bit argument; neither has a
command encoding. -/
def Obligations.EventsAndEnvironmentWords : Prop :=
  decodeVector 1#2 = some .isrEdge ∧ decodeVector 2#2 = some .isrCmpa ∧ decodeVector 3#2 = some .isrCmpb ∧
  decodeEnv 0#3 = some .tick ∧
  (∀ w : BitVec 3, w.extractLsb' 0 2 = 1#2 → decodeEnv w = some (.rxline (w.extractLsb' 2 1))) ∧
  (∀ w : BitVec 3, w.extractLsb' 0 2 = 2#2 → decodeEnv w = some (.gie (w.extractLsb' 2 1))) ∧
  ∀ bs i rest, decodeCommand bs = .command i rest → isHostOp i = true

/-! ## Steps, holds and refusals (00_scope.md) -/

/-- When the bytes at the front of the foreground's program decode to `i`, and it is the foreground's turn and it holds
nothing, the step is `exec i` on the state with the turn taken and the command's bytes consumed; nothing else is added. -/
def Obligations.StepPerformsTheDecodedCommand : Prop :=
  ∀ (s : State) i rest, s.vector = none → mover s = .foreground → s.hold = none → decodeCommand s.program = .command i rest →
    step s = exec i { s with turns := s.turns.tail, program := rest }

/-- On the environment's turn the step is `exec` of the next environment word, or `TICK` where none is queued (log 1), on the
state with the turn taken and the word consumed; an undefined word is refused (log 17). -/
def Obligations.StepPerformsTheEnvironmentWord : Prop :=
  (∀ (s : State) w i rest, s.vector = none → mover s = .environment → s.envQueue = w :: rest → decodeEnv w = some i →
    step s = exec i { s with turns := s.turns.tail, envQueue := rest }) ∧
  (∀ s : State, s.vector = none → mover s = .environment → s.envQueue = [] →
    step s = exec .tick { s with turns := s.turns.tail }) ∧
  ∀ (s : State) w rest, s.vector = none → mover s = .environment → s.envQueue = w :: rest → decodeEnv w = none →
    step s = .refused (.undefinedEnvironmentWord w)

/-- The probing device `vector` (log 9): the step is `exec` of the handler with that vector number. -/
def Obligations.StepPerformsTheVector : Prop :=
  (∀ (s : State) v i, s.vector = some v → decodeVector v = some i → step s = exec i { s with vector := none }) ∧
  ∀ s : State, s.vector = some 0#2 → step s = .refused .unusedVector

/-- An operation placed by `withFetchWord` under its own table word is what the very next step performs, for a live or a not
yet initialized block. The spec says nothing of placing a word: the width that tells the kinds of word apart, the turn that is
given, and the hold that is dropped for a command are the model's choice (log 16), and so is running a handler by itself through
the probing device `vector` (log 9). -/
def Obligations.PlacedWordRunsNext : Prop :=
  ∀ (s : State) i,
    (isHostOp i = true →
      step (s.withFetchWord (tableWidth i) (tableBits i)) = exec i { s with vector := none, hold := none }) ∧
    (isHostOp i = false →
      step (s.withFetchWord (tableWidth i) (tableBits i)) = exec i { s with vector := none })

/-- R11: while the foreground holds it performs no other host operation. A turn of the foreground re-tests the hold's own
condition: while it is false nothing changes but the turn taken. (A held `ALARM` or `DELAY` has a period count that fits: another
was refused before its hold, log 14.) -/
def Obligations.HeldForegroundSpins : Prop :=
  ∀ (s : State) h, s.vector = none → mover s = .foreground → Live s → s.hold = some h → holdLifted h s = false →
    (∀ d, h = .alarm d ∨ h = .delay d → periodsFit s.cfg d = true) →
    step s = .next { s with turns := s.turns.tail }

/-- R11: once its condition is true, the foreground's turn performs the atomic body the hold was waiting for: that of `SEND`
(R121), `RECV` (R192, R193), `ALARM` (R142), the first step of `DELAY`, or its return (R147). -/
def Obligations.LiftedHoldPerformsItsBody : Prop :=
  ∀ (s : State) h, s.vector = none → mover s = .foreground → Live s → s.hold = some h → holdLifted h s = true →
    step s = (match h with
      | .send b => exec (.send b) { s with turns := s.turns.tail, hold := none }
      | .recv => exec .recv { s with turns := s.turns.tail, hold := none }
      | .alarm d => exec (.alarm d) { s with turns := s.turns.tail, hold := none }
      | .delay d => exec (.delay d) { s with turns := s.turns.tail, hold := none }
      | .delayReturn => .next { s with turns := s.turns.tail, hold := none })

/-- The model's choice of log 6 for R11's "no other host operation while it waits": a host operation other than `INIT` that is
asked for during a hold waits its turn in the program, and nothing else changes. -/
def Obligations.HostOperationsWaitBehindAHold : Prop :=
  ∀ (s : State) h i, Live s → s.hold = some h → isHostOp i = true → i ≠ .init →
    exec i s = .next { s with program := commandBytes i ++ s.program }

/-- R12: an operation is refused exactly where R12 says so: parameters outside R5, `INIT` with `gie = 1`, a host operation
before the first `INIT`, a period count over 32 bits. (With a hold, log 6 applies; the period count is tested before the hold,
log 14.) -/
def Obligations.OperationsAreRefusedOnlyByR12 : Prop :=
  ∀ (i : Instr) (s : State), (∃ r, exec i s = .refused r) ↔
    (s.cfg.valid = false ∨
     (s.cfg.valid = true ∧ i = .init ∧ s.gie = true) ∨
     (s.cfg.valid = true ∧ isHostOp i = true ∧ i ≠ .init ∧ s.initialized = false) ∨
     (Ready s ∧ ∃ d, (i = .alarm d ∨ i = .delay d) ∧ 2 ^ 32 ≤ wholePeriods s.cfg d))

/-- R5, R12: the constraints on the parameters; outside them there is no block, and no step has a successor. -/
def Obligations.NoStepOutsideTheParameters : Prop :=
  (∀ c : Config, c.valid = true ↔
    (2 ≤ c.P ∧ c.P ≤ 2 ^ c.cntBits ∧ 1 ≤ c.cntBits ∧ 1 ≤ c.N ∧ 1 ≤ c.fTick ∧
     (c.rxVariant = .ring → 2 ≤ c.C ∧ c.C ≤ 256))) ∧
  ∀ s : State, s.cfg.valid = false → (∀ i, exec i s = .refused .parametersOutOfRange) ∧ ∃ r, step s = .refused r

/-! ## Reset (45_system.md R210, 70_reset_and_hazards.md) -/

/-- R50: the values of the state after reset, for whatever parameters it has (those of State.reset are log 5); the fields of
both variants are there (log 15). The level of the input `rx_pin`, which R50 leaves open, is not stated (log 3). -/
def Obligations.ResetValuesOfRuleR50 : Prop :=
  let r := State.reset
  r.top = r.cfg.P ∧ r.cnt = 0 ∧ r.cmpA = 0 ∧ r.cmpB = 0 ∧ r.ieA = false ∧ r.ieB = false ∧
  r.edgeIe = true ∧ r.edgeIf = false ∧ r.txPin = 1#1 ∧ r.gie = false ∧
  r.txState = .idle ∧ r.txBits = 0 ∧ r.txShift = 0#8 ∧ r.delayCounter = 0#32 ∧ r.txOs = 1 ∧ r.rxOs = 1 ∧
  r.sendReady = true ∧ r.rxState = .idle ∧ r.rxBits = 0 ∧ r.rxAcc = 0#8 ∧
  r.available = .none ∧ r.recvByte = 0#8 ∧ (∀ i, Memory.read r.buf i = 0#8) ∧ r.head = 0 ∧ r.tail = 0

/-- R210, R50: with `gie = 0`, `INIT` writes every field of the block to its reset value, of the receive buffer the fields of the
variant that is built, and keeps the inputs; with `gie = 1` it is refused. -/
def Obligations.InitLeavesTheStateOfR50 : Prop :=
  ∀ s : State, s.cfg.valid = true → s.hold = none →
    (s.gie = false → ∃ t, exec .init s = .next t ∧
      t.top = s.cfg.P ∧ t.cnt = 0 ∧ t.cmpA = 0 ∧ t.cmpB = 0 ∧ t.ieA = false ∧ t.ieB = false ∧
      t.txPin = 1#1 ∧ t.txState = .idle ∧ t.txBits = 0 ∧ t.txShift = 0#8 ∧ t.delayCounter = 0#32 ∧ t.txOs = 1 ∧
      t.sendReady = true ∧ t.rxState = .idle ∧ t.rxBits = 0 ∧ t.rxAcc = 0#8 ∧ t.rxOs = 1 ∧
      t.edgeIf = false ∧ t.edgeIe = true ∧
      (s.cfg.rxVariant = .single → t.available = .none ∧ t.recvByte = 0#8) ∧
      (s.cfg.rxVariant = .ring → t.head = 0 ∧ t.tail = 0 ∧ ∀ i, i < s.cfg.C → Memory.read t.buf i = 0#8) ∧
      t.rxPin = s.rxPin ∧ t.gie = s.gie ∧ t.cfg = s.cfg ∧ t.initialized = true) ∧
    (s.gie = true → exec .init s = .refused .initWithInterruptsEnabled)

/-- The whole state `INIT` leaves, with what the model adds to R210: with `gie = 0`, `INIT` gives the state of R50 from any
state, before the first `INIT` or after it, keeping the inputs `rx_pin` and `gie` and the inputs still to come; with
`gie = 1` it is refused. (A hold is given up, log 6; both variants' fields are written, log 15.) -/
def Obligations.InitGivesTheResetState : Prop :=
  (∀ s : State, s.cfg.valid = true → s.gie = false →
    exec .init s = .next
      { State.reset with
        cfg := s.cfg, top := s.cfg.P, rxPin := s.rxPin, gie := s.gie
        program := s.program, envQueue := s.envQueue, vector := s.vector, turns := s.turns, trace := s.trace }) ∧
  ∀ s : State, s.cfg.valid = true → s.gie = true → exec .init s = .refused .initWithInterruptsEnabled

/-- R251: before the first `INIT` every other host operation is refused, and the environment steps change only `rx_pin` and
`gie` and run no handler. -/
def Obligations.BeforeTheFirstInit : Prop :=
  ∀ s : State, s.cfg.valid = true → s.initialized = false →
    (∀ i, isHostOp i = true → i ≠ .init → exec i s = .refused .beforeInit) ∧
    exec .tick s = .next s ∧
    (∀ l, exec (.rxline l) s = .next { s with rxPin := l }) ∧
    (∀ v, exec (.gie v) s = .next { s with gie := decide (v = 1#1) })

/-! ## BitClock (40_bitclock.md) -/

/-- R101 to R104: the primitives, with everything they leave alone. -/
def Obligations.BitClockPrimitives : Prop :=
  ∀ (s : State) off,
    armChannel .A off s = { s with cmpA := (s.cnt + off) % s.cfg.P } ∧
    armChannel .B off s = { s with cmpB := (s.cnt + off) % s.cfg.P } ∧
    enableChannel .A s = { s with ieA := true } ∧ enableChannel .B s = { s with ieB := true } ∧
    disableChannel .A s = { s with ieA := false } ∧ disableChannel .B s = { s with ieB := false } ∧
    now s = s.cnt ∧ setTop off s = { s with top := off }

/-- R106: the counter moves by one modulo `top`; the handlers of the channels that match the value before the increment, are
enabled, and are not gated, run in this step, A before B; a match that is masked or gated does nothing. -/
def Obligations.TickRunsTheMatchingHandlers : Prop :=
  ∀ s : State, Live s →
    let fireA := s.cnt = s.cmpA ∧ s.ieA = true ∧ s.gie = true
    let fireB := s.cnt = s.cmpB ∧ s.ieB = true ∧ s.gie = true
    let t := { s with cnt := (s.cnt + 1) % s.top }
    (¬fireA → ¬fireB → exec .tick s = .next t) ∧
    (fireA → ¬fireB → exec .tick s = exec .isrCmpa t) ∧
    (¬fireA → fireB → exec .tick s = exec .isrCmpb t) ∧
    (fireA → fireB → exec .tick s = thenDo (exec .isrCmpa t) (exec .isrCmpb))

/-- From every live state that meets the invariant of R49, `TICK` completes: the counter counts `0 .. P-1` and wraps (R20),
and the clock's period, the gate, the line and the foreground are left alone. -/
def Obligations.TickAlwaysCompletes : Prop :=
  ∀ s : State, Invariant s → s.initialized = true → ∃ t, exec .tick s = .next t ∧
    t.cnt = (if s.cnt + 1 = s.cfg.P then 0 else s.cnt + 1) ∧ t.top = s.top ∧ t.rxPin = s.rxPin ∧ t.tail = s.tail ∧
    SamePlatform s t ∧ SameInputs s t

/-- R107, the period law (the spec's own derivation): after a match is `k` ticks away, the handler's request is delivered in the
ticks `k + 1`, `k + 1 + P`, ... and in no others, as long as the compare value, the enable and the gate stay. -/
def Obligations.PeriodLaw : Prop :=
  ∀ s : State, Invariant s → s.initialized = true → ∀ n, ∃ t, ticks n s = .next t ∧ t.cnt = (s.cnt + n) % s.cfg.P ∧
    (∀ k, k < s.cfg.P → t.cmpA = (s.cnt + k) % s.cfg.P → t.ieA = true → t.gie = true →
      (fires .A t = true ↔ n % s.cfg.P = k)) ∧
    ∀ k, k < s.cfg.P → t.cmpB = (s.cnt + k) % s.cfg.P → t.ieB = true → t.gie = true →
      (fires .B t = true ↔ n % s.cfg.P = k)

/-! ## TxEngine (41_tx_engine.md) -/

/-- R120: `TXRDY` returns `send_ready` and changes nothing; from a state that meets R49 the result is `tx_state = Idle`. -/
def Obligations.TxrdyReturnsSendReady : Prop :=
  ∀ s : State, Ready s →
    exec .txrdy s = .next { s with trace := s.trace ++ [.returned (.ready (if s.sendReady then 1#1 else 0#1))] } ∧
    (Invariant s → (s.sendReady = true ↔ s.txState = .idle))

/-- R121: with `send_ready = true`, `SEND b` arms channel A at the present count, loads the byte, and starts the engine; with
`send_ready = false` it holds and nothing else changes. -/
def Obligations.SendQueuesTheByte : Prop :=
  ∀ (s : State) b, Ready s →
    (s.sendReady = true → exec (.send b) s = .next
      { s with
        cmpA := s.cnt % s.cfg.P, txShift := b, txState := .sendStart, sendReady := false, txOs := 1, ieA := true }) ∧
    (s.sendReady = false → exec (.send b) s = .next { s with hold := some (.send b) })

/-- R122, R123: above 1 the countdown goes down by one and nothing else changes; else it is reloaded with `N`, and in `Idle`
that is all. -/
def Obligations.ChannelAHandlerCountsDown : Prop :=
  ∀ s : State, Live s →
    (1 < s.txOs → exec .isrCmpa s = .next { s with txOs := s.txOs - 1 }) ∧
    (s.txOs ≤ 1 → s.txState = .idle → exec .isrCmpa s = .next { s with txOs := s.cfg.N })

/-- R124 to R127: the arms `SendStart`, `SendData`, `SendStop` and `Finishing` of an advance, with everything they leave
alone. -/
def Obligations.TransmitArms : Prop :=
  ∀ s : State, Live s → s.txOs ≤ 1 →
    (s.txState = .sendStart → exec .isrCmpa s = .next
      { s with txOs := s.cfg.N, txPin := 0#1, txBits := 8, txState := .sendData }) ∧
    (s.txState = .sendData → 1 < s.txBits → exec .isrCmpa s = .next
      { s with txOs := s.cfg.N, txPin := s.txShift.extractLsb' 0 1, txShift := s.txShift >>> 1, txBits := s.txBits - 1 }) ∧
    (s.txState = .sendData → s.txBits = 1 → exec .isrCmpa s = .next
      { s with
        txOs := s.cfg.N, txPin := s.txShift.extractLsb' 0 1, txShift := s.txShift >>> 1, txBits := 0
        txState := .sendStop }) ∧
    (s.txState = .sendStop → exec .isrCmpa s = .next { s with txOs := s.cfg.N, txPin := 1#1, txState := .finishing }) ∧
    (s.txState = .finishing → exec .isrCmpa s = .next
      { s with txOs := s.cfg.N, sendReady := true, txState := .idle, ieA := false })

/-- R128, the waveform law (the spec's own derivation), for every byte, every `N` and `P`, whatever the receive line does: from
the `SEND` step on, `m >= 1` ticks later the transmit line is at the level of bit period `(m - 1) div BIT` of the frame (R81),
high after the stop bit. -/
def Obligations.TransmitWaveform : Prop :=
  ∀ (s : State) b, Running s → s.hold = none → s.sendReady = true →
    ∃ u, exec (.send b) s = .next u ∧ u.txPin = s.txPin ∧
      ∀ steps, (∀ i ∈ steps, isTickOrLine i = true) → ∃ t, runAll steps u = .next t ∧
        (1 ≤ steps.count .tick → t.txPin = frameBit b ((steps.count .tick - 1) / bitTicks s.cfg))

/-- R129, the duration law (the spec's own derivation): `send_ready` is false from the `SEND` step up to and including tick
`10 * BIT` and true from tick `1 + 10 * BIT` on. -/
def Obligations.TransmitBusyTime : Prop :=
  ∀ (s : State) b, Running s → s.hold = none → s.sendReady = true →
    ∃ u, exec (.send b) s = .next u ∧
      ∀ steps, (∀ i ∈ steps, isTickOrLine i = true) → ∃ t, runAll steps u = .next t ∧
        (t.sendReady = true ↔ 10 * bitTicks s.cfg < steps.count .tick)

/-- R131, R174: no abort. While `send_ready = false` no host operation but `INIT` touches the transmit side; and no host
operation but `INIT` ever touches the receiver. -/
def Obligations.OnlyInitAborts : Prop :=
  ∀ (i : Instr) (s t : State), isHostOp i = true → i ≠ .init → exec i s = .next t →
    (s.sendReady = false → SameTransmit s t) ∧ SameReceiver s t

/-! ## DelayEngine (42_delay_engine.md) -/

/-- R141: the conversion of milliseconds over the unbounded naturals, its worked numbers at the reference configuration, and
the refusal of a period count that does not fit 32 bits, on an engine that is ready (OperationsAreRefusedOnlyByR12 says it for a
busy one too). -/
def Obligations.MillisecondConversion : Prop :=
  (∀ c d, delayTicks c d = d.toNat * c.fTick / 1000 ∧ wholePeriods c d = delayTicks c d / (c.N * c.P) ∧
    remTicks c d = delayTicks c d % (c.N * c.P)) ∧
  wholePeriods Config.reference 1000#32 = 9615 ∧ remTicks Config.reference 1000#32 = 80 ∧
  ∀ (s : State) d, Ready s → s.sendReady = true → 2 ^ 32 ≤ wholePeriods s.cfg d →
    exec (.alarm d) s = .refused .periodCountTooLarge ∧ exec (.delay d) s = .refused .periodCountTooLarge

/-- R142: with `send_ready = true`, `ALARM d` moves the compare value backward by the remainder, loads the countdown and the
period count, and starts the delay; with `send_ready = false` it holds and nothing else changes. -/
def Obligations.AlarmStartsThePeriod : Prop :=
  ∀ (s : State) d, Ready s → wholePeriods s.cfg d < 2 ^ 32 →
    (s.sendReady = true → ∃ n : Word32, n.toNat = wholePeriods s.cfg d ∧ exec (.alarm d) s = .next
      { s with
        cmpA := (s.cnt + (s.cfg.P - remTicks s.cfg d % s.cfg.P) % s.cfg.P) % s.cfg.P
        txOs := s.cfg.N - remTicks s.cfg d / s.cfg.P, delayCounter := n
        txState := .timedDelay, sendReady := false, ieA := true }) ∧
    (s.sendReady = false → exec (.alarm d) s = .next { s with hold := some (.alarm d) })

/-- R147: `DELAY d` is `ALARM d` with its own hold, and then a hold until `send_ready`, after which it returns. -/
def Obligations.DelayIsAlarmThenHold : Prop :=
  (∀ (s : State) d, Ready s → wholePeriods s.cfg d < 2 ^ 32 →
    (s.sendReady = true → ∃ t, exec (.alarm d) s = .next t ∧
      exec (.delay d) s = .next { t with hold := some .delayReturn }) ∧
    (s.sendReady = false → exec (.delay d) s = .next { s with hold := some (.delay d) })) ∧
  ∀ s : State, s.vector = none → mover s = .foreground → Live s → s.hold = some .delayReturn → s.sendReady = true →
    step s = .next { s with turns := s.turns.tail, hold := none }

/-- R145: an advance in `TimedDelay` decrements the counter unless it is 0, and ends the period when it is then 0. -/
def Obligations.TimedDelayArm : Prop :=
  ∀ s : State, Live s → s.txOs ≤ 1 → s.txState = .timedDelay →
    (1 < s.delayCounter.toNat → exec .isrCmpa s = .next
      { s with txOs := s.cfg.N, delayCounter := s.delayCounter - 1#32 }) ∧
    (s.delayCounter.toNat ≤ 1 → exec .isrCmpa s = .next
      { s with txOs := s.cfg.N, delayCounter := 0#32, sendReady := true, txState := .idle, ieA := false })

/-- R146, the duration law of a delay (the spec's own derivation), for every `d`, `N` and `P`, whatever the receive line does:
`send_ready` is true exactly from tick `t_end` on, and the transmit line stays where it is. -/
def Obligations.DelayBusyTime : Prop :=
  ∀ (s : State) d, Running s → s.hold = none → s.sendReady = true → wholePeriods s.cfg d < 2 ^ 32 →
    ∃ u, exec (.alarm d) s = .next u ∧
      ∀ steps, (∀ i ∈ steps, isTickOrLine i = true) → ∃ t, runAll steps u = .next t ∧
        (t.sendReady = true ↔ delayEnd s.cfg d ≤ steps.count .tick) ∧ t.txPin = s.txPin

/-! ## RxEngine and EdgeSensor (43_rx_engine.md) -/

/-- R160: the line takes its level, a falling edge is latched whatever the masks, and a delivered request runs `ISR_EDGE` in
this same step. -/
def Obligations.RxlineLatchesTheEdge : Prop :=
  ∀ (s : State) l, Live s →
    let falls := s.rxPin = 1#1 ∧ l = 0#1
    let u := { s with rxPin := l, edgeIf := if s.rxPin = 1#1 ∧ l = 0#1 then true else s.edgeIf }
    ((falls ∨ s.edgeIf = true) → s.edgeIe = true → s.gie = true → exec (.rxline l) s = exec .isrEdge u) ∧
    (¬((falls ∨ s.edgeIf = true) ∧ s.edgeIe = true ∧ s.gie = true) → exec (.rxline l) s = .next u)

/-- R162, R163: a low line arms channel B half a bit period from now, and the sensor disables itself; a high line is a spurious
edge, and only the request is taken. -/
def Obligations.EdgeHandlerArmsTheReceiver : Prop :=
  ∀ s : State, Live s →
    let h := (s.cfg.N * s.cfg.P) / 2
    (s.rxPin = 0#1 → exec .isrEdge s = .next
      { s with
        edgeIf := false, cmpB := (s.cnt + h % s.cfg.P) % s.cfg.P, rxOs := h / s.cfg.P + 1, ieB := true, edgeIe := false
        rxState := .armedForStart }) ∧
    (s.rxPin = 1#1 → exec .isrEdge s = .next
      { s with edgeIf := false, trace := s.trace ++ [.raised .spuriousEdge] })

/-- R164 to R167: the channel-B handler's countdown and its arms `Idle`, `ArmedForStart` and `SampleData`. The sample is
`rx_pin`, shifted in at bit 7. -/
def Obligations.ReceiveArms : Prop :=
  ∀ s : State, Live s →
    (1 < s.rxOs → exec .isrCmpb s = .next { s with rxOs := s.rxOs - 1 }) ∧
    (s.rxOs ≤ 1 → s.rxState = .idle → exec .isrCmpb s = .next { s with rxOs := s.cfg.N }) ∧
    (s.rxOs ≤ 1 → s.rxState = .armedForStart → exec .isrCmpb s = .next
      { s with rxOs := s.cfg.N, rxBits := 8, rxState := .sampleData }) ∧
    (s.rxOs ≤ 1 → s.rxState = .sampleData → 1 < s.rxBits → exec .isrCmpb s = .next
      { s with rxOs := s.cfg.N, rxAcc := s.rxPin ++ s.rxAcc.extractLsb' 1 7, rxBits := s.rxBits - 1 }) ∧
    (s.rxOs ≤ 1 → s.rxState = .sampleData → s.rxBits = 1 → exec .isrCmpb s = .next
      { s with rxOs := s.cfg.N, rxAcc := s.rxPin ++ s.rxAcc.extractLsb' 1 7, rxBits := 0, rxState := .checkStop })

/-- R168 with R194 to R196: a high stop bit delivers `rx_acc`, into the `Single` slot, into a ring with room at slot `head`, or
nowhere when the ring is full; the receiver is released; everything else is as before. -/
def Obligations.GoodStopBitDelivers : Prop :=
  ∀ s : State, Invariant s → s.initialized = true → s.rxOs ≤ 1 → s.rxState = .checkStop → s.rxPin = 1#1 →
    ∃ t, exec .isrCmpb s = .next t ∧ Delivered s.rxAcc s t ∧ ReceiverIdle t ∧
      t.rxOs = s.cfg.N ∧ t.rxAcc = s.rxAcc ∧ t.rxBits = s.rxBits ∧ t.cmpB = s.cmpB ∧ t.rxPin = s.rxPin ∧
      SameTransmit s t ∧ SameClock s t ∧ SamePlatform s t ∧ SameInputs s t

/-- R168 with R198, R199: a low stop bit records a framing error, delivers no byte, and releases the receiver. -/
def Obligations.LowStopBitIsAFramingError : Prop :=
  ∀ s : State, Live s → s.rxOs ≤ 1 → s.rxState = .checkStop → s.rxPin = 0#1 →
    ∃ t, exec .isrCmpb s = .next t ∧ FramingErrorRecorded s t ∧ ReceiverIdle t ∧
      t.rxOs = s.cfg.N ∧ t.rxAcc = s.rxAcc ∧ t.rxBits = s.rxBits ∧ t.cmpB = s.cmpB ∧ t.rxPin = s.rxPin ∧
      SameTransmit s t ∧ SameClock s t ∧ SamePlatform s t ∧ SameInputs s t

/-- R169, the sampling-instant law (the spec's own derivation), for every `N` and `P` and every behaviour of the line: after an
accepted start edge `ISR_CMPB` advances in the ticks `H + 1 + j * BIT`, `j = 0 .. 9`, and in no other of the frame's ticks. -/
def Obligations.SamplingInstants : Prop :=
  ∀ (s : State) line, Running s → s.rxState = .idle → s.rxPin = 1#1 →
    ∃ u, exec (.rxline 0#1) s = .next u ∧ u.rxState = .armedForStart ∧
      ∀ n, n < halfBit s.cfg + 1 + 9 * bitTicks s.cfg → ∃ t, driveLine line n u = .next t ∧
        ((fires .B t = true ∧ t.rxOs ≤ 1) ↔ ∃ j, j ≤ 9 ∧ n + 1 = halfBit s.cfg + 1 + j * bitTicks s.cfg)

/-- R170, the reception law (the spec's own derivation), for every byte, every `N` and `P`: a line that is at the frame's level
(R81) in the sampling ticks of the data and stop bits, whatever it does in between, delivers the byte and leaves the receiver
waiting for the next start edge. -/
def Obligations.ReceptionDeliversTheByte : Prop :=
  ∀ (s : State) b line, Running s → s.rxState = .idle → s.rxPin = 1#1 →
    (∀ j, 1 ≤ j → j ≤ 9 → line (halfBit s.cfg + 1 + j * bitTicks s.cfg) = frameBit b j) →
    ∃ u t, exec (.rxline 0#1) s = .next u ∧ driveLine line (halfBit s.cfg + 1 + 9 * bitTicks s.cfg) u = .next t ∧
      Delivered b s t ∧ ReceiverIdle t

/-- R171, the framing-error law (the spec's own derivation): the same with a low line in the tick of the stop bit records a
framing error and delivers no byte. -/
def Obligations.LowStopBitOnTheLine : Prop :=
  ∀ (s : State) line, Running s → s.rxState = .idle → s.rxPin = 1#1 →
    line (halfBit s.cfg + 1 + 9 * bitTicks s.cfg) = 0#1 →
    ∃ u t, exec (.rxline 0#1) s = .next u ∧ driveLine line (halfBit s.cfg + 1 + 9 * bitTicks s.cfg) u = .next t ∧
      FramingErrorRecorded s t ∧ ReceiverIdle t

/-! ## ReceiveQueue (44_receive_queue.md) -/

/-- R190, R191: `AVAIL` returns the code of `available` (R91), or the count of unread bytes, and changes nothing. -/
def Obligations.AvailReturnsTheCount : Prop :=
  ∀ s : State, Ready s →
    (s.cfg.rxVariant = .single → exec .avail s = .next
      { s with trace := s.trace ++
          [.returned (.count (match s.available with | .none => 0#8 | .byte => 1#8 | .framingError => 2#8))] }) ∧
    (s.cfg.rxVariant = .ring → s.head < s.cfg.C → s.tail < s.cfg.C → ∃ v : Byte,
      v.toNat = (if s.tail ≤ s.head then s.head - s.tail else s.head + s.cfg.C - s.tail) ∧
      exec .avail s = .next { s with trace := s.trace ++ [.returned (.count v)] })

/-- R192, R193: `RECV` returns and consumes the byte that waits; where none waits it holds and nothing else changes. A framing
error is no byte that waits. -/
def Obligations.RecvConsumesTheByte : Prop :=
  ∀ s : State, Ready s →
    (s.cfg.rxVariant = .single → s.available = .byte → exec .recv s = .next
      { s with available := .none, trace := s.trace ++ [.returned (.byte s.recvByte)] }) ∧
    (s.cfg.rxVariant = .single → s.available ≠ .byte → exec .recv s = .next { s with hold := some .recv }) ∧
    (s.cfg.rxVariant = .ring → s.head ≠ s.tail → s.tail < s.cfg.C → exec .recv s = .next
      { s with
        tail := (s.tail + 1) % s.cfg.C, trace := s.trace ++ [.returned (.byte (Memory.read s.buf s.tail))] }) ∧
    (s.cfg.rxVariant = .ring → s.head = s.tail → exec .recv s = .next { s with hold := some .recv })

/-- R61: a slot reads back the byte last written to it, every other slot as before, and the canonical form is kept; an index
outside `0 .. C-1` has no behaviour: the model faults (log 12). -/
def Obligations.RingSlotReadsBack : Prop :=
  ∀ (s : State) i v, Memory.wf s.buf →
    (i < s.cfg.C → ∃ t, memWrite i v s = .next t ∧ Memory.wf t.buf ∧ Memory.read t.buf i = v ∧
      (∀ j, j ≠ i → Memory.read t.buf j = Memory.read s.buf j) ∧ t = { s with buf := t.buf } ∧
      ∀ k, memRead i t k = k v) ∧
    (s.cfg.C ≤ i → memWrite i v s = .fault (.ringIndexOutOfRange i) ∧
      ∀ k, memRead i s k = .fault (.ringIndexOutOfRange i))

/-- R197, the ring laws (the spec's own derivation): the ring is a first-in, first-out queue of at most `C - 1` bytes. `RECV`
takes the oldest, a good frame appends its byte when there is room and is dropped when there is none, `AVAIL` counts them, and
nothing but these and `INIT` changes the queue. -/
def Obligations.RingIsAFifo : Prop :=
  ∀ s : State, Invariant s → s.initialized = true → s.cfg.rxVariant = .ring →
    (contents s).length ≤ s.cfg.C - 1 ∧
    (s.hold = none → ∃ v : Byte, v.toNat = (contents s).length ∧
      exec .avail s = .next { s with trace := s.trace ++ [.returned (.count v)] }) ∧
    (∀ b rest, s.hold = none → contents s = b :: rest → ∃ t, exec .recv s = .next t ∧
      t.trace = s.trace ++ [.returned (.byte b)] ∧ contents t = rest) ∧
    (s.hold = none → contents s = [] → exec .recv s = .next { s with hold := some .recv }) ∧
    (s.rxOs ≤ 1 → s.rxState = .checkStop → s.rxPin = 1#1 → ∃ t, exec .isrCmpb s = .next t ∧
      contents t = if (contents s).length < s.cfg.C - 1 then contents s ++ [s.rxAcc] else contents s) ∧
    ∀ i t, i ≠ .init → i ≠ .recv → exec i s = .next t →
      contents t = contents s ∨
      (contents t = contents s ++ [s.rxAcc] ∧ (i = .tick ∨ i = .isrCmpb) ∧ s.rxState = .checkStop ∧ s.rxPin = 1#1)

/-! ## System (45_system.md) -/

/-- R212: `GIE(v)` sets the gate; a latched edge with the sensor enabled is served now; no compare handler runs. -/
def Obligations.GieServesALatchedEdge : Prop :=
  ∀ s : State, Live s →
    exec (.gie 0#1) s = .next { s with gie := false } ∧
    (s.edgeIf = true → s.edgeIe = true → exec (.gie 1#1) s = exec .isrEdge { s with gie := true }) ∧
    (¬(s.edgeIf = true ∧ s.edgeIe = true) → exec (.gie 1#1) s = .next { s with gie := true })

/-! ## The whole machine -/

/-- The state after reset meets the invariant of R49 (with the canonical form of the ring-buffer space and R5). -/
def Obligations.ResetMeetsTheInvariant : Prop := Invariant State.reset ∧ State.reset.initialized = true

/-- R49 (the spec's own derivation): from every state that meets the invariant, whatever step the machine takes, the invariant
holds again; before the first `INIT` it asks for the parameters and the canonical memory only. -/
def Obligations.EveryStepKeepsTheInvariant : Prop :=
  (∀ (s : State) t, Invariant s → step s = .next t → Invariant t) ∧
  ∀ (i : Instr) (s t : State), Invariant s → exec i s = .next t → Invariant t

/-- From every state that meets the invariant no step faults: the one fault, a ring index out of range (R61), cannot occur. -/
def Obligations.NoStepFaultsUnderTheInvariant : Prop :=
  ∀ s : State, Invariant s → SafeResult (step s) ∧ ∀ i, SafeResult (exec i s)

/-- R76, R270: no step changes a parameter, and once `INIT` has run the block stays initialized with `top = P`. -/
def Obligations.NoStepReprogramsTheBlock : Prop :=
  ∀ (s : State) t, step s = .next t → t.cfg = s.cfg ∧ (s.initialized = true → t.initialized = true) ∧
    (Invariant s → s.initialized = true → t.top = s.cfg.P)

/-- R73 (the spec's own derivation): the operations of the transmit side touch only transmit fields; the gate, the clock, the
receiver and every byte of the queue are left alone. -/
def Obligations.TransmitSideFrame : Prop :=
  ∀ (i : Instr) (s t : State), (i = .isrCmpa ∨ i = .txrdy ∨ (∃ b, i = .send b) ∨ (∃ d, i = .alarm d) ∨ ∃ d, i = .delay d) →
    exec i s = .next t →
    SameReceiver s t ∧ SameQueue s t ∧ SameClock s t ∧ SamePlatform s t ∧ (i ≠ .isrCmpa → t.txPin = s.txPin)

/-- R73 (the spec's own derivation): the operations of the receive side touch only receive fields; the gate, the clock and the
transmit side are left alone. -/
def Obligations.ReceiveSideFrame : Prop :=
  ∀ (i : Instr) (s t : State), (i = .isrEdge ∨ i = .isrCmpb ∨ (∃ l, i = .rxline l) ∨ i = .recv ∨ i = .avail) →
    exec i s = .next t →
    SameTransmit s t ∧ SameClock s t ∧ SamePlatform s t ∧ (i ≠ .isrCmpb → SameMemory s t)

/-- Handlers and environment steps leave the foreground's hold and the inputs still to come alone; a handler takes no input and
saves nothing (R230, R233). -/
def Obligations.HandlersLeaveTheForegroundAlone : Prop :=
  ∀ (i : Instr) (s t : State), isHostOp i = false → exec i s = .next t →
    SameInputs s t ∧ t.cfg = s.cfg ∧ t.initialized = s.initialized

/-- R228: the order of two handlers in one tick cannot be observed. -/
def Obligations.HandlerOrderIsUnobservable : Prop :=
  ∀ s : State, Live s → thenDo (exec .isrCmpa s) (exec .isrCmpb) = thenDo (exec .isrCmpb s) (exec .isrCmpa)

/-- R73 (the spec's own derivation), in part: each of `ISR_CMPA`, `SEND`, `ALARM` and `DELAY` commutes with each of `ISR_EDGE`,
`ISR_CMPB` and `RXLINE`. Left out of R73's two lists: `TXRDY`, whose return value stands in the trace before or after a condition
the receive side raises (log 8), and `RECV` and `AVAIL` on the receive side, `ISR_CMPA` with them included. -/
def Obligations.TransmitAndReceiveCommute : Prop :=
  ∀ (s : State) a b, Invariant s → s.initialized = true →
    (a = .isrCmpa ∨ (∃ v, a = .send v) ∨ (∃ d, a = .alarm d) ∨ ∃ d, a = .delay d) →
    (b = .isrEdge ∨ b = .isrCmpb ∨ ∃ l, b = .rxline l) →
    thenDo (exec a s) (exec b) = thenDo (exec b s) (exec a)

/-- R241: who may write what. The foreground never raises `send_ready`, never drives the line, never writes `head`, `buf` or
`recv_byte`, and moves `available` to `None` only; the other context never clears `send_ready`, never writes `tail`, and moves
`available` to `Byte` or `FramingError` only. -/
def Obligations.ContextsWriteTheirOwnFields : Prop :=
  (∀ (i : Instr) (s t : State), isHostOp i = true → i ≠ .init → exec i s = .next t →
    (t.sendReady = true → s.sendReady = true) ∧ t.txPin = s.txPin ∧ t.head = s.head ∧ SameMemory s t ∧
    t.recvByte = s.recvByte ∧ (t.available = s.available ∨ t.available = .none) ∧ SameReceiver s t) ∧
  ∀ (i : Instr) (s t : State), isHostOp i = false → exec i s = .next t →
    (s.sendReady = true → t.sendReady = true) ∧ t.tail = s.tail ∧ t.cmpA = s.cmpA ∧
    (t.available = s.available ∨ t.available = .byte ∨ t.available = .framingError) ∧
    (t.ieA = true → s.ieA = true)

/-- R270 (the spec's own derivation): a compare value never changes under a running engine, in any operation but `INIT`; for
channel B, in any but the edge handler run by itself on a running receiver, which no event does (log 9). -/
def Obligations.CompareValuesStayWhileRunning : Prop :=
  ∀ (i : Instr) (s t : State), Invariant s → s.initialized = true → i ≠ .init → exec i s = .next t →
    (s.ieA = true → t.cmpA = s.cmpA) ∧ (s.ieB = true → i ≠ .isrEdge → t.cmpB = s.cmpB)

/-- A claim about the model only (D30): its observation trace, which is a field of State that `INIT` leaves alone by the model's
choice (log 8), grows only. `raise` and `return` (R14) append to it, and no operation and no step takes an entry away. -/
def Obligations.TheTraceOnlyGrows : Prop :=
  (∀ (i : Instr) (s t : State), exec i s = .next t → ∃ more, t.trace = s.trace ++ more) ∧
  ∀ (s : State) t, step s = .next t → ∃ more, t.trace = s.trace ++ more
end

