-- ==== Sys2Proof/Laws/Encoding.lean ====
section
/-! SUPPORT. The 32-bit operand and its bytes (30_encoding.md R84, R86). -/

namespace Sys2Proof

/-- The value of `imm32` from its bytes, least significant first. -/
theorem imm32Of_toNat (b0 b1 b2 b3 : Byte) : (imm32Of b0 b1 b2 b3).toNat =
   b0.toNat + 256 * b1.toNat + 65536 * b2.toNat + 16777216 * b3.toNat := by
  have h0 := b0.isLt
  have h1 := b1.isLt
  have h2 := b2.isLt
  have h3 := b3.isLt
  simp only [imm32Of, BitVec.toNat_append]
  simp only [← Nat.shiftLeft_add_eq_or_of_lt h2, ← Nat.shiftLeft_add_eq_or_of_lt h1, ← Nat.shiftLeft_add_eq_or_of_lt h0]
  simp only [Nat.shiftLeft_eq]
  omega

/-- Splitting `imm32` into bytes and assembling it again gives it back. -/
theorem imm32Of_imm32Byte (d : Word32) : imm32Of (imm32Byte d 0) (imm32Byte d 1) (imm32Byte d 2) (imm32Byte d 3) = d := by
  apply BitVec.eq_of_toNat_eq
  rw [imm32Of_toNat]
  simp only [imm32Byte, BitVec.extractLsb'_toNat, Nat.shiftRight_eq_div_pow]
  have := d.isLt
  omega

/-- Assembling four bytes and splitting the result gives them back. -/
theorem imm32Bytes_imm32Of (b0 b1 b2 b3 : Byte) : imm32Bytes (imm32Of b0 b1 b2 b3) = [b0, b1, b2, b3] := by
  simp only [imm32Bytes, List.cons.injEq, and_true]
  have h0 := b0.isLt
  have h1 := b1.isLt
  have h2 := b2.isLt
  have h3 := b3.isLt
  refine ⟨?_, ?_, ?_, ?_⟩ <;> apply BitVec.eq_of_toNat_eq <;>
    simp only [imm32Byte, BitVec.extractLsb'_toNat, Nat.shiftRight_eq_div_pow, imm32Of_toNat] <;> omega

end Sys2Proof
end

