-- ==== Sys2Proof/Laws/Ops.lean ====
section
/-! SUPPORT. One lemma per shared operation: everything it can do. Later proofs cite these and unfold none of them. -/

namespace Sys2Proof.Machine

/-! ## Sequencing -/

@[simp] theorem thenDo_next (s : State) (k : State → Result) : thenDo (.next s) k = k s := rfl
@[simp] theorem thenDo_fault (f : Fault) (k : State → Result) : thenDo (.fault f) k = .fault f := rfl
@[simp] theorem thenDo_refused (q : Refusal) (k : State → Result) : thenDo (.refused q) k = .refused q := rfl

theorem thenDo_eq_next {r : Result} {k : State → Result} {t : State} :
    thenDo r k = .next t ↔ ∃ s, r = .next s ∧ k s = .next t := by
  cases r <;> simp

theorem thenDo_assoc (r : Result) (k l : State → Result) :
    thenDo (thenDo r k) l = thenDo r fun s => thenDo (k s) l := by
  cases r <;> rfl

@[simp] theorem thenDo_pure (r : Result) : thenDo r .next = r := by cases r <;> rfl

@[simp] theorem thenDo_return (r : Result) : thenDo r returnFromHandler = r := by cases r <;> rfl

/-! ## Guards -/

theorem onBlock_valid {s : State} (h : s.cfg.valid = true) (k : State → Result) : onBlock s k = k s := by
  simp [onBlock, h]

theorem onBlock_invalid {s : State} (h : s.cfg.valid = false) (k : State → Result) :
    onBlock s k = .refused .parametersOutOfRange := by simp [onBlock, h]

theorem afterInit_live {s : State} (h : Live s) (k : State → Result) : afterInit s k = k s := by
  simp [afterInit, onBlock, h.1, h.2]

theorem afterInit_early {s : State} (hv : s.cfg.valid = true) (hi : s.initialized = false) (k : State → Result) :
    afterInit s k = .refused .beforeInit := by simp [afterInit, onBlock, hv, hi]

theorem hostOp_ready {s : State} (h : Ready s) (i : Instr) (k : State → Result) : hostOp i s k = k s := by
  simp [hostOp, afterInit_live h.1, h.2]

theorem hostOp_held {s : State} {h : Hold} (hl : Live s) (hh : s.hold = some h) (i : Instr) (k : State → Result) :
    hostOp i s k = .next { s with program := commandBytes i ++ s.program } := by
  simp [hostOp, afterInit_live hl, hh]

/-- Everything a host operation's guard can do when it answers a next state: wait behind a hold, or run the body. -/
theorem hostOp_eq_next {i : Instr} {s t : State} {k : State → Result} (h : hostOp i s k = .next t) :
    Live s ∧ ((s.hold ≠ none ∧ t = { s with program := commandBytes i ++ s.program }) ∨ (s.hold = none ∧ k s = .next t)) := by
  simp only [hostOp, afterInit, onBlock] at h
  split at h
  · rename_i hv
    split at h
    · rename_i hi
      refine ⟨⟨hv, hi⟩, ?_⟩
      split at h
      · rename_i hh
        left
        simp_all
      · rename_i hh
        exact .inr ⟨hh, h⟩
    · simp at h
  · simp at h

theorem blockStep_live {s : State} (h : Live s) (early : State → State) (k : State → Result) :
    blockStep early s k = k s := by simp [blockStep, onBlock, h.1, h.2]

theorem blockStep_early {s : State} (hv : s.cfg.valid = true) (hi : s.initialized = false) (early : State → State)
    (k : State → Result) : blockStep early s k = .next (early s) := by simp [blockStep, onBlock, hv, hi]

/-- Everything an environment step's or handler's guard can do when it answers a next state. -/
theorem blockStep_eq_next {early : State → State} {s t : State} {k : State → Result} (h : blockStep early s k = .next t) :
    (s.cfg.valid = true ∧ s.initialized = false ∧ t = early s) ∨ (Live s ∧ k s = .next t) := by
  simp only [blockStep, onBlock] at h
  split at h
  · rename_i hv
    split at h
    · rename_i hi
      exact .inr ⟨⟨hv, hi⟩, h⟩
    · left
      simp_all
  · simp at h

/-! ## Holds, handlers, the ring's space -/

@[simp] theorem holdUntil_true (h : Hold) (s : State) (k : State → Result) : holdUntil true h s k = k s := rfl

@[simp] theorem holdUntil_false (h : Hold) (s : State) (k : State → Result) :
    holdUntil false h s k = .next { s with hold := some h } := rfl

@[simp] theorem enterHandler_true (k : State → Result) (s : State) : enterHandler true k s = k s := rfl

@[simp] theorem enterHandler_false (k : State → Result) (s : State) : enterHandler false k s = .next s := rfl

@[simp] theorem returnFromHandler_eq (s : State) : returnFromHandler s = .next s := rfl

theorem memRead_lt {i : Nat} {s : State} (h : i < s.cfg.C) (k : Byte → Result) :
    memRead i s k = k (Memory.read s.buf i) := by simp [memRead, h]

theorem memWrite_lt {i : Nat} {s : State} (h : i < s.cfg.C) (v : Byte) :
    memWrite i v s = .next { s with buf := Memory.write s.buf i v } := by simp [memWrite, h]

end Sys2Proof.Machine
end

