-- ==== Sys2Proof/Laws/Exec.lean ====
section
/-! SUPPORT. The meanings once their guards are passed: on a live block, and where the foreground can perform an operation. -/

namespace Sys2Proof.Machine

theorem exec_tick {s : State} (h : Live s) : exec .tick s = tickBody s := by
  change execTick s = _
  exact blockStep_live h _ _

theorem exec_rxline {s : State} (h : Live s) (l : Bit) : exec (.rxline l) s = serveEdge (setLine l s) := by
  change execRxline l s = _
  exact blockStep_live h _ _

theorem exec_gie {s : State} (h : Live s) (v : Bit) :
    exec (.gie v) s = serveEdge { s with gie := decide (v = 1#1) } := by
  change execGie v s = _
  exact blockStep_live h _ _

theorem exec_isrEdge {s : State} (h : Live s) : exec .isrEdge s = .next (isrEdge s) := by
  change execIsrEdge s = _
  exact blockStep_live h _ _

theorem exec_isrCmpa {s : State} (h : Live s) : exec .isrCmpa s = .next (isrCmpa s) := by
  change execIsrCmpa s = _
  exact blockStep_live h _ _

theorem exec_isrCmpb {s : State} (h : Live s) : exec .isrCmpb s = isrCmpb s := by
  change execIsrCmpb s = _
  rw [execIsrCmpb, blockStep_live h, thenDo_return]

theorem exec_avail {s : State} (h : Ready s) : exec .avail s = .next (giveBack (.count (availValue s)) s) := by
  change execAvail s = _
  exact hostOp_ready h _ _

theorem exec_txrdy {s : State} (h : Ready s) : exec .txrdy s = .next (giveBack (.ready (readyBit s)) s) := by
  change execTxrdy s = _
  exact hostOp_ready h _ _

theorem exec_send {s : State} (h : Ready s) (b : Byte) :
    exec (.send b) s = holdUntil s.sendReady (.send b) s fun s => .next (sendBody b s) := by
  change execSend b s = _
  exact hostOp_ready h _ _

theorem exec_recv {s : State} (h : Ready s) : exec .recv s = holdUntil (byteWaiting s) .recv s recvBody := by
  change execRecv s = _
  exact hostOp_ready h _ _

theorem exec_alarm {s : State} (h : Ready s) (d : Word32) :
    exec (.alarm d) s = periodsOrRefuse d s fun s => holdUntil s.sendReady (.alarm d) s fun s => .next (alarmBody d s) := by
  change execAlarm d s = _
  exact hostOp_ready h _ _

theorem exec_delay {s : State} (h : Ready s) (d : Word32) :
    exec (.delay d) s = periodsOrRefuse d s fun s =>
      holdUntil s.sendReady (.delay d) s fun s => .next { alarmBody d s with hold := some .delayReturn } := by
  change execDelay d s = _
  exact hostOp_ready h _ _

theorem periodsOrRefuse_fit {d : Word32} {s : State} (h : wholePeriods s.cfg d < 2 ^ 32) (k : State → Result) :
    periodsOrRefuse d s k = k s := by
  simp only [periodsOrRefuse, periodsFit, decide_eq_true h, if_true]

theorem periodsOrRefuse_large {d : Word32} {s : State} (h : 2 ^ 32 ≤ wholePeriods s.cfg d) (k : State → Result) :
    periodsOrRefuse d s k = .refused .periodCountTooLarge := by
  simp only [periodsOrRefuse, periodsFit, decide_eq_false (Nat.not_lt.2 h), Bool.false_eq_true, if_false]

end Sys2Proof.Machine
end

