-- ==== Sys2Proof/Laws/Handlers.lean ====
section
/-! SUPPORT. What each handler leaves alone, said once (20_memory.md R73). -/

namespace Sys2Proof.Machine

/-! ## The channel-A handler -/

/-- It writes transmit fields only. -/
theorem isrCmpa_frame (s : State) :
    isrCmpa s = { s with
      ieA := (isrCmpa s).ieA, txPin := (isrCmpa s).txPin, txState := (isrCmpa s).txState, txBits := (isrCmpa s).txBits
      txShift := (isrCmpa s).txShift, delayCounter := (isrCmpa s).delayCounter, txOs := (isrCmpa s).txOs
      sendReady := (isrCmpa s).sendReady } := by
  by_cases h : 1 < s.txOs
  · simp only [isrCmpa, if_pos h]
  · cases ht : s.txState
    case sendData =>
      by_cases hb : s.txBits - 1 = 0 <;> simp [isrCmpa, h, txAdvance, ht, txSendData, hb]
    case timedDelay =>
      by_cases hb : delayCountdown s.delayCounter = 0#32 <;>
        simp [isrCmpa, h, txAdvance, ht, txTimedDelay, hb, disableChannel]
    all_goals simp [isrCmpa, h, txAdvance, ht, txSendStart, txSendStop, txFinishing, disableChannel]

@[simp] theorem isrCmpa_cfg (s : State) : (isrCmpa s).cfg = s.cfg := (congrArg State.cfg (isrCmpa_frame s) :)
@[simp] theorem isrCmpa_initialized (s : State) : (isrCmpa s).initialized = s.initialized := (congrArg State.initialized (isrCmpa_frame s) :)
@[simp] theorem isrCmpa_cnt (s : State) : (isrCmpa s).cnt = s.cnt := (congrArg State.cnt (isrCmpa_frame s) :)
@[simp] theorem isrCmpa_top (s : State) : (isrCmpa s).top = s.top := (congrArg State.top (isrCmpa_frame s) :)
@[simp] theorem isrCmpa_cmpA (s : State) : (isrCmpa s).cmpA = s.cmpA := (congrArg State.cmpA (isrCmpa_frame s) :)
@[simp] theorem isrCmpa_cmpB (s : State) : (isrCmpa s).cmpB = s.cmpB := (congrArg State.cmpB (isrCmpa_frame s) :)
@[simp] theorem isrCmpa_ieB (s : State) : (isrCmpa s).ieB = s.ieB := (congrArg State.ieB (isrCmpa_frame s) :)
@[simp] theorem isrCmpa_edgeIe (s : State) : (isrCmpa s).edgeIe = s.edgeIe := (congrArg State.edgeIe (isrCmpa_frame s) :)
@[simp] theorem isrCmpa_edgeIf (s : State) : (isrCmpa s).edgeIf = s.edgeIf := (congrArg State.edgeIf (isrCmpa_frame s) :)
@[simp] theorem isrCmpa_rxPin (s : State) : (isrCmpa s).rxPin = s.rxPin := (congrArg State.rxPin (isrCmpa_frame s) :)
@[simp] theorem isrCmpa_gie (s : State) : (isrCmpa s).gie = s.gie := (congrArg State.gie (isrCmpa_frame s) :)
@[simp] theorem isrCmpa_rxState (s : State) : (isrCmpa s).rxState = s.rxState := (congrArg State.rxState (isrCmpa_frame s) :)
@[simp] theorem isrCmpa_rxBits (s : State) : (isrCmpa s).rxBits = s.rxBits := (congrArg State.rxBits (isrCmpa_frame s) :)
@[simp] theorem isrCmpa_rxAcc (s : State) : (isrCmpa s).rxAcc = s.rxAcc := (congrArg State.rxAcc (isrCmpa_frame s) :)
@[simp] theorem isrCmpa_rxOs (s : State) : (isrCmpa s).rxOs = s.rxOs := (congrArg State.rxOs (isrCmpa_frame s) :)
@[simp] theorem isrCmpa_available (s : State) : (isrCmpa s).available = s.available := (congrArg State.available (isrCmpa_frame s) :)
@[simp] theorem isrCmpa_recvByte (s : State) : (isrCmpa s).recvByte = s.recvByte := (congrArg State.recvByte (isrCmpa_frame s) :)
@[simp] theorem isrCmpa_buf (s : State) : (isrCmpa s).buf = s.buf := (congrArg State.buf (isrCmpa_frame s) :)
@[simp] theorem isrCmpa_head (s : State) : (isrCmpa s).head = s.head := (congrArg State.head (isrCmpa_frame s) :)
@[simp] theorem isrCmpa_tail (s : State) : (isrCmpa s).tail = s.tail := (congrArg State.tail (isrCmpa_frame s) :)
@[simp] theorem isrCmpa_hold (s : State) : (isrCmpa s).hold = s.hold := (congrArg State.hold (isrCmpa_frame s) :)
@[simp] theorem isrCmpa_program (s : State) : (isrCmpa s).program = s.program := (congrArg State.program (isrCmpa_frame s) :)
@[simp] theorem isrCmpa_envQueue (s : State) : (isrCmpa s).envQueue = s.envQueue := (congrArg State.envQueue (isrCmpa_frame s) :)
@[simp] theorem isrCmpa_vector (s : State) : (isrCmpa s).vector = s.vector := (congrArg State.vector (isrCmpa_frame s) :)
@[simp] theorem isrCmpa_turns (s : State) : (isrCmpa s).turns = s.turns := (congrArg State.turns (isrCmpa_frame s) :)
@[simp] theorem isrCmpa_trace (s : State) : (isrCmpa s).trace = s.trace := (congrArg State.trace (isrCmpa_frame s) :)

/-! ## The edge sensor's handler -/

/-- It writes receiver fields and the trace only, and takes the request. -/
theorem isrEdge_frame (s : State) :
    isrEdge s = { s with
      cmpB := (isrEdge s).cmpB, ieB := (isrEdge s).ieB, edgeIe := (isrEdge s).edgeIe, edgeIf := false
      rxState := (isrEdge s).rxState, rxOs := (isrEdge s).rxOs, trace := (isrEdge s).trace } := by
  by_cases h : s.rxPin = 0#1 <;> simp [isrEdge, h, armChannel, enableChannel, raise]

@[simp] theorem isrEdge_edgeIf (s : State) : (isrEdge s).edgeIf = false := (congrArg State.edgeIf (isrEdge_frame s) :)
@[simp] theorem isrEdge_cfg (s : State) : (isrEdge s).cfg = s.cfg := (congrArg State.cfg (isrEdge_frame s) :)
@[simp] theorem isrEdge_initialized (s : State) : (isrEdge s).initialized = s.initialized := (congrArg State.initialized (isrEdge_frame s) :)
@[simp] theorem isrEdge_cnt (s : State) : (isrEdge s).cnt = s.cnt := (congrArg State.cnt (isrEdge_frame s) :)
@[simp] theorem isrEdge_top (s : State) : (isrEdge s).top = s.top := (congrArg State.top (isrEdge_frame s) :)
@[simp] theorem isrEdge_cmpA (s : State) : (isrEdge s).cmpA = s.cmpA := (congrArg State.cmpA (isrEdge_frame s) :)
@[simp] theorem isrEdge_ieA (s : State) : (isrEdge s).ieA = s.ieA := (congrArg State.ieA (isrEdge_frame s) :)
@[simp] theorem isrEdge_txPin (s : State) : (isrEdge s).txPin = s.txPin := (congrArg State.txPin (isrEdge_frame s) :)
@[simp] theorem isrEdge_rxPin (s : State) : (isrEdge s).rxPin = s.rxPin := (congrArg State.rxPin (isrEdge_frame s) :)
@[simp] theorem isrEdge_gie (s : State) : (isrEdge s).gie = s.gie := (congrArg State.gie (isrEdge_frame s) :)
@[simp] theorem isrEdge_txState (s : State) : (isrEdge s).txState = s.txState := (congrArg State.txState (isrEdge_frame s) :)
@[simp] theorem isrEdge_txBits (s : State) : (isrEdge s).txBits = s.txBits := (congrArg State.txBits (isrEdge_frame s) :)
@[simp] theorem isrEdge_txShift (s : State) : (isrEdge s).txShift = s.txShift := (congrArg State.txShift (isrEdge_frame s) :)
@[simp] theorem isrEdge_delayCounter (s : State) : (isrEdge s).delayCounter = s.delayCounter := (congrArg State.delayCounter (isrEdge_frame s) :)
@[simp] theorem isrEdge_txOs (s : State) : (isrEdge s).txOs = s.txOs := (congrArg State.txOs (isrEdge_frame s) :)
@[simp] theorem isrEdge_sendReady (s : State) : (isrEdge s).sendReady = s.sendReady := (congrArg State.sendReady (isrEdge_frame s) :)
@[simp] theorem isrEdge_rxBits (s : State) : (isrEdge s).rxBits = s.rxBits := (congrArg State.rxBits (isrEdge_frame s) :)
@[simp] theorem isrEdge_rxAcc (s : State) : (isrEdge s).rxAcc = s.rxAcc := (congrArg State.rxAcc (isrEdge_frame s) :)
@[simp] theorem isrEdge_available (s : State) : (isrEdge s).available = s.available := (congrArg State.available (isrEdge_frame s) :)
@[simp] theorem isrEdge_recvByte (s : State) : (isrEdge s).recvByte = s.recvByte := (congrArg State.recvByte (isrEdge_frame s) :)
@[simp] theorem isrEdge_buf (s : State) : (isrEdge s).buf = s.buf := (congrArg State.buf (isrEdge_frame s) :)
@[simp] theorem isrEdge_head (s : State) : (isrEdge s).head = s.head := (congrArg State.head (isrEdge_frame s) :)
@[simp] theorem isrEdge_tail (s : State) : (isrEdge s).tail = s.tail := (congrArg State.tail (isrEdge_frame s) :)
@[simp] theorem isrEdge_hold (s : State) : (isrEdge s).hold = s.hold := (congrArg State.hold (isrEdge_frame s) :)
@[simp] theorem isrEdge_program (s : State) : (isrEdge s).program = s.program := (congrArg State.program (isrEdge_frame s) :)
@[simp] theorem isrEdge_envQueue (s : State) : (isrEdge s).envQueue = s.envQueue := (congrArg State.envQueue (isrEdge_frame s) :)
@[simp] theorem isrEdge_vector (s : State) : (isrEdge s).vector = s.vector := (congrArg State.vector (isrEdge_frame s) :)
@[simp] theorem isrEdge_turns (s : State) : (isrEdge s).turns = s.turns := (congrArg State.turns (isrEdge_frame s) :)

/-! ## Delivering a byte, and the channel-B handler -/

/-- `Deliver` writes the receive buffer's producer side and the trace only. -/
theorem deliver_frame {b : Byte} {s t : State} (h : deliver b s = .next t) :
    t = { s with available := t.available, recvByte := t.recvByte, buf := t.buf, head := t.head, trace := t.trace } := by
  cases hv : s.cfg.rxVariant
  case single =>
    simp only [deliver, hv, Host.Outcome.next.injEq] at h
    subst h
    by_cases ha : s.available = .byte <;> simp [deliverSingle, raise, ha]
  case ring =>
    simp only [deliver, hv, deliverRing, memWrite] at h
    split at h
    · cases h
      rfl
    · split at h
      · cases h
        rfl
      · simp at h

/-- `RecordFramingError` writes `available` and the trace only. -/
theorem recordFramingError_frame (s : State) :
    recordFramingError s =
      { s with available := (recordFramingError s).available, trace := s.trace ++ [.raised .framingError] } := by
  cases hv : s.cfg.rxVariant <;> simp [recordFramingError, raise, hv]

/-- The channel-B handler writes receiver fields, the receive buffer's producer side and the trace only. -/
theorem isrCmpb_frame {s t : State} (h : isrCmpb s = .next t) :
    t = { s with
      ieB := t.ieB, edgeIe := t.edgeIe, edgeIf := t.edgeIf, rxState := t.rxState, rxBits := t.rxBits, rxAcc := t.rxAcc
      rxOs := t.rxOs, available := t.available, recvByte := t.recvByte, buf := t.buf, head := t.head, trace := t.trace } := by
  by_cases hos : 1 < s.rxOs
  · simp only [isrCmpb, if_pos hos, Host.Outcome.next.injEq] at h
    subst h
    rfl
  · cases hs : s.rxState <;> simp only [isrCmpb, hos, if_false, rxAdvance, hs, Host.Outcome.next.injEq] at h
    case idle =>
      subst h
      simp
    case armedForStart =>
      subst h
      rfl
    case sampleData =>
      subst h
      by_cases hb : s.rxBits - 1 = 0 <;> simp [rxSampleData, hb]
    case checkStop =>
      obtain ⟨u, hu, ht⟩ := thenDo_eq_next.1 h
      cases ht
      split at hu
      · rw [deliver_frame hu]
        rfl
      · cases hu
        rw [recordFramingError_frame]
        rfl

end Sys2Proof.Machine
end

