-- ==== Sys2Proof/Laws/Inversion.lean ====
section
/-! SUPPORT. Said once: everything an operation can do when it answers a next state. Later proofs take a step apart with these. -/

namespace Sys2Proof.Machine

/-- `Deliver` can fault (R61) but not refuse. -/
theorem deliver_never_refuses (b : Byte) (s : State) (r : Refusal) : deliver b s ≠ .refused r := by
  unfold deliver deliverRing memWrite
  split
  · simp
  · split
    · simp
    · split <;> simp

/-- Nor can the channel-B handler. -/
theorem isrCmpb_never_refuses (s : State) (r : Refusal) : isrCmpb s ≠ .refused r := by
  unfold isrCmpb rxAdvance rxCheckStop
  dsimp only
  split
  · simp
  · split <;> try (simp; done)
    split
    · have := deliver_never_refuses
      intro h
      cases hd : deliver { s with rxOs := s.cfg.N }.rxAcc { s with rxOs := s.cfg.N } with
      | next => rw [hd] at h; simp at h
      | fault => rw [hd] at h; simp at h
      | refused => exact deliver_never_refuses _ _ _ hd
    · simp

/-- The channel-A handler leaves a block live. -/
theorem live_isrCmpa {s : State} (h : Live s) : Live (isrCmpa s) := by
  rw [Live, isrCmpa_cfg, isrCmpa_initialized]; exact h

/-- Everything a host operation other than INIT can do. -/
theorem exec_hostOp_eq_next {i : Instr} {s t : State} (hh : isHostOp i = true) (hn : i ≠ .init) (h : exec i s = .next t) :
    Live s ∧
    ((s.hold ≠ none ∧ t = { s with program := commandBytes i ++ s.program }) ∨
     (s.hold = none ∧ ((∃ w, t = { s with hold := some w }) ∨
      (∃ r, t = giveBack r s) ∨
      (∃ b, i = .send b ∧ s.sendReady = true ∧ t = sendBody b s) ∨
      (i = .recv ∧ byteWaiting s = true ∧ recvBody s = .next t) ∨
      (∃ d, i = .alarm d ∧ s.sendReady = true ∧ wholePeriods s.cfg d < 2 ^ 32 ∧ t = alarmBody d s) ∨
      (∃ d, i = .delay d ∧ s.sendReady = true ∧ wholePeriods s.cfg d < 2 ^ 32 ∧ t = { alarmBody d s with hold := some .delayReturn })))) := by
  cases i <;> simp only [isHostOp, Bool.false_eq_true] at hh
  · simp at hn
  · change execAvail s = _ at h
    obtain ⟨hl, h | ⟨h0, h⟩⟩ := hostOp_eq_next h
    · exact ⟨hl, .inl h⟩
    · cases h; exact ⟨hl, .inr ⟨h0, .inr (.inl ⟨_, rfl⟩)⟩⟩
  · change execTxrdy s = _ at h
    obtain ⟨hl, h | ⟨h0, h⟩⟩ := hostOp_eq_next h
    · exact ⟨hl, .inl h⟩
    · cases h; exact ⟨hl, .inr ⟨h0, .inr (.inl ⟨_, rfl⟩)⟩⟩
  · rename_i b
    change execSend b s = _ at h
    obtain ⟨hl, h | ⟨h0, h⟩⟩ := hostOp_eq_next h
    · exact ⟨hl, .inl h⟩
    · refine ⟨hl, .inr ⟨h0, ?_⟩⟩
      cases hr : s.sendReady <;> simp only [hr, holdUntil_false, holdUntil_true] at h <;> cases h
      · exact .inl ⟨_, rfl⟩
      · exact .inr (.inr (.inl ⟨b, rfl, rfl, rfl⟩))
  · change execRecv s = _ at h
    obtain ⟨hl, h | ⟨h0, h⟩⟩ := hostOp_eq_next h
    · exact ⟨hl, .inl h⟩
    · refine ⟨hl, .inr ⟨h0, ?_⟩⟩
      cases hr : byteWaiting s <;> simp only [hr, holdUntil_false, holdUntil_true] at h
      · cases h; exact .inl ⟨_, rfl⟩
      · exact .inr (.inr (.inr (.inl ⟨rfl, rfl, h⟩)))
  · rename_i d
    change execAlarm d s = _ at h
    obtain ⟨hl, h | ⟨h0, h⟩⟩ := hostOp_eq_next h
    · exact ⟨hl, .inl h⟩
    · refine ⟨hl, .inr ⟨h0, ?_⟩⟩
      by_cases hw : wholePeriods s.cfg d < 2 ^ 32
      · rw [periodsOrRefuse_fit hw] at h
        cases hr : s.sendReady <;> simp only [hr, holdUntil_false, holdUntil_true] at h <;> cases h
        · exact .inl ⟨_, rfl⟩
        · exact .inr (.inr (.inr (.inr (.inl ⟨d, rfl, rfl, hw, rfl⟩))))
      · rw [periodsOrRefuse_large (Nat.not_lt.1 hw)] at h; cases h
  · rename_i d
    change execDelay d s = _ at h
    obtain ⟨hl, h | ⟨h0, h⟩⟩ := hostOp_eq_next h
    · exact ⟨hl, .inl h⟩
    · refine ⟨hl, .inr ⟨h0, ?_⟩⟩
      by_cases hw : wholePeriods s.cfg d < 2 ^ 32
      · rw [periodsOrRefuse_fit hw] at h
        cases hr : s.sendReady <;> simp only [hr, holdUntil_false, holdUntil_true] at h <;> cases h
        · exact .inl ⟨_, rfl⟩
        · exact .inr (.inr (.inr (.inr (.inr ⟨d, rfl, rfl, hw, rfl⟩))))
      · rw [periodsOrRefuse_large (Nat.not_lt.1 hw)] at h; cases h

/-- Everything the body of `RECV` can do. -/
theorem recvBody_eq_next {s t : State} (h : recvBody s = .next t) :
    (s.cfg.rxVariant = .single ∧ t = giveBack (.byte s.recvByte) { s with available := .none }) ∨
    (s.cfg.rxVariant = .ring ∧ s.tail < s.cfg.C ∧
      t = giveBack (.byte (Memory.read s.buf s.tail)) { s with tail := nextIndex s.cfg s.tail }) := by
  unfold recvBody memRead at h
  split at h
  · cases h; exact .inl ⟨by assumption, rfl⟩
  · split at h <;> cases h
    exact .inr ⟨by assumption, by assumption, rfl⟩

/-- Everything `TICK` can do on a live block. -/
theorem tickBody_eq_next {s t : State} (h : tickBody s = .next t) :
    ∃ u, ((fires .A s = false ∧ u = countUp s) ∨ (fires .A s = true ∧ u = isrCmpa (countUp s))) ∧
      ((fires .B s = false ∧ t = u) ∨ (fires .B s = true ∧ isrCmpb u = .next t)) := by
  unfold tickBody at h
  cases hA : fires .A s <;> cases hB : fires .B s <;>
    simp only [hA, hB, enterHandler_true, enterHandler_false, thenDo_next, returnFromHandler_eq, thenDo_return] at h
  · cases h; exact ⟨_, .inl ⟨rfl, rfl⟩, .inl ⟨rfl, rfl⟩⟩
  · exact ⟨_, .inl ⟨rfl, rfl⟩, .inr ⟨rfl, h⟩⟩
  · cases h; exact ⟨_, .inr ⟨rfl, rfl⟩, .inl ⟨rfl, rfl⟩⟩
  · exact ⟨_, .inr ⟨rfl, rfl⟩, .inr ⟨rfl, h⟩⟩

/-- A delivered edge request runs the handler, another changes nothing. -/
theorem serveEdge_eq (s : State) : serveEdge s = .next (if edgeDelivered s then isrEdge s else s) := by
  unfold serveEdge; cases h : edgeDelivered s <;> simp

/-- Everything a handler or an environment step can do. -/
theorem exec_event_eq_next {i : Instr} {s t : State} (hh : isHostOp i = false) (h : exec i s = .next t) :
    (s.cfg.valid = true ∧ s.initialized = false ∧
      (t = s ∨ (∃ l, i = .rxline l ∧ t = { s with rxPin := l }) ∨ ∃ v, i = .gie v ∧ t = { s with gie := decide (v = 1#1) })) ∨
    (Live s ∧
      ((i = .isrEdge ∧ t = isrEdge s) ∨ (i = .isrCmpa ∧ t = isrCmpa s) ∨ (i = .isrCmpb ∧ isrCmpb s = .next t) ∨
       (i = .tick ∧ tickBody s = .next t) ∨
       (∃ l, i = .rxline l ∧ t = if edgeDelivered (setLine l s) then isrEdge (setLine l s) else setLine l s) ∨
       ∃ v, i = .gie v ∧ t = if edgeDelivered { s with gie := decide (v = 1#1) }
          then isrEdge { s with gie := decide (v = 1#1) } else { s with gie := decide (v = 1#1) })) := by
  cases i <;> simp only [isHostOp, Bool.true_eq_false] at hh
  · change execIsrEdge s = _ at h
    obtain ⟨a, b, rfl⟩ | ⟨hl, h⟩ := blockStep_eq_next h
    · exact .inl ⟨a, b, .inl rfl⟩
    · cases h; exact .inr ⟨hl, .inl ⟨rfl, rfl⟩⟩
  · change execIsrCmpa s = _ at h
    obtain ⟨a, b, rfl⟩ | ⟨hl, h⟩ := blockStep_eq_next h
    · exact .inl ⟨a, b, .inl rfl⟩
    · cases h; exact .inr ⟨hl, .inr (.inl ⟨rfl, rfl⟩)⟩
  · change execIsrCmpb s = _ at h
    obtain ⟨a, b, rfl⟩ | ⟨hl, h⟩ := blockStep_eq_next h
    · exact .inl ⟨a, b, .inl rfl⟩
    · rw [thenDo_return] at h; exact .inr ⟨hl, .inr (.inr (.inl ⟨rfl, h⟩))⟩
  · change execTick s = _ at h
    obtain ⟨a, b, rfl⟩ | ⟨hl, h⟩ := blockStep_eq_next h
    · exact .inl ⟨a, b, .inl rfl⟩
    · exact .inr ⟨hl, .inr (.inr (.inr (.inl ⟨rfl, h⟩)))⟩
  · rename_i l
    change execRxline l s = _ at h
    obtain ⟨a, b, rfl⟩ | ⟨hl, h⟩ := blockStep_eq_next h
    · exact .inl ⟨a, b, .inr (.inl ⟨l, rfl, rfl⟩)⟩
    · rw [serveEdge_eq] at h; cases h; exact .inr ⟨hl, .inr (.inr (.inr (.inr (.inl ⟨l, rfl, rfl⟩))))⟩
  · rename_i v
    change execGie v s = _ at h
    obtain ⟨a, b, rfl⟩ | ⟨hl, h⟩ := blockStep_eq_next h
    · exact .inl ⟨a, b, .inr (.inr ⟨v, rfl, rfl⟩)⟩
    · rw [serveEdge_eq] at h; cases h; exact .inr ⟨hl, .inr (.inr (.inr (.inr (.inr ⟨v, rfl, rfl⟩))))⟩

/-- Everything `INIT` can do. -/
theorem exec_init_eq_next {s t : State} (h : exec .init s = .next t) :
    s.cfg.valid = true ∧ s.gie = false ∧ t = initState s := by
  change execInit s = _ at h
  simp only [execInit, onBlock] at h
  split at h
  · split at h <;> cases h
    exact ⟨by assumption, by simp_all, rfl⟩
  · cases h

/-- Everything the return of `DELAY` can do. -/
theorem delayReturn_eq_next {s t : State} (h : delayReturn s = .next t) :
    Live s ∧ ((s.sendReady = true ∧ t = s) ∨ (s.sendReady = false ∧ t = { s with hold := some .delayReturn })) := by
  simp only [delayReturn, afterInit, onBlock] at h
  split at h
  · split at h
    · refine ⟨⟨by assumption, by assumption⟩, ?_⟩
      cases hr : s.sendReady <;> simp only [hr, holdUntil_false, holdUntil_true] at h <;> cases h
      · exact .inr ⟨rfl, rfl⟩
      · exact .inl ⟨rfl, rfl⟩
    · cases h
  · cases h

/-- A move is made from a state that differs from `s` in the inputs still to come and the hold only. -/
theorem nextMove_state {s u : State}
    (h : (∃ i, nextMove s = .issue i u) ∨ (∃ k, nextMove s = .resume k u) ∨ nextMove s = .rest u) :
    u = { s with hold := u.hold, program := u.program, envQueue := u.envQueue, vector := u.vector, turns := u.turns } := by
  unfold nextMove at h
  split at h
  · unfold vectorMove at h
    split at h <;> simp at h
    subst h; rfl
  · split at h
    · unfold foregroundMove at h
      split at h
      · simp only [Move.resume.injEq, reduceCtorEq, exists_false, false_or, or_false] at h
        obtain ⟨_, _, rfl⟩ := h
        rfl
      · split at h
        · simp only [Move.issue.injEq, reduceCtorEq, exists_false, or_false] at h
          obtain ⟨_, _, rfl⟩ := h
          rfl
        · rename_i e _
          cases e <;> simp [rejectCommand] at h
          subst h
          rfl
    · unfold environmentMove at h
      split at h
      · simp only [Move.issue.injEq, reduceCtorEq, exists_false, or_false] at h
        obtain ⟨_, _, rfl⟩ := h
        rfl
      · split at h <;> simp at h
        subst h
        rfl

/-- Everything a step can do: perform an operation, re-test `DELAY`'s second hold, or let the foreground rest, from a state that
differs from `s` in the inputs still to come and the hold only. -/
theorem step_eq_next {s t : State} (h : step s = .next t) :
    ∃ u : State,
      u = { s with hold := u.hold, program := u.program, envQueue := u.envQueue, vector := u.vector, turns := u.turns } ∧
      ((∃ i, exec i u = .next t) ∨ delayReturn u = .next t ∨ t = u) := by
  unfold step at h
  cases hm : nextMove s with
  | issue i u => exact ⟨u, nextMove_state (.inl ⟨i, hm⟩), .inl ⟨i, by rw [hm] at h; exact h⟩⟩
  | resume k u =>
    refine ⟨u, nextMove_state (.inr (.inl ⟨k, hm⟩)), ?_⟩
    rw [hm] at h
    cases k with
    | send b => exact .inl ⟨.send b, h⟩
    | recv => exact .inl ⟨.recv, h⟩
    | alarm d => exact .inl ⟨.alarm d, h⟩
    | delay d => exact .inl ⟨.delay d, h⟩
    | delayReturn => exact .inr (.inl h)
  | rest u =>
    refine ⟨u, nextMove_state (.inr (.inr hm)), .inr (.inr ?_)⟩
    rw [hm] at h
    simp only [perform, onBlock] at h
    split at h <;> cases h
    rfl
  | reject r => rw [hm] at h; cases h

end Sys2Proof.Machine
end

