-- ==== Sys2Proof/Laws/Memory.lean ====
section
/-! SUPPORT. The ring-buffer space: a read after a write, and that a write keeps the canonical form (20_memory.md R61). -/

namespace Sys2Proof.Machine

@[simp] theorem Memory.read_nil (i : Nat) : Memory.read [] i = blankByte := rfl

@[simp] theorem Memory.wf_nil : Memory.wf [] := ⟨List.Pairwise.nil, by simp⟩

theorem Memory.wf_cons {c : Host.Cell} {m : Memory} :
    Memory.wf (c :: m) ↔ c.2 ≠ blankByte ∧ (∀ d ∈ m, c.1 < d.1) ∧ Memory.wf m := by
  simp only [Memory.wf, List.pairwise_cons, List.mem_cons, forall_eq_or_imp]
  tauto

/-- An index below every listed one reads as blank. -/
theorem Memory.read_of_lt {m : Memory} {i : Nat} (h : ∀ d ∈ m, i < d.1) : Memory.read m i = blankByte := by
  induction m with
  | nil => rfl
  | cons c m ih =>
    obtain ⟨k, v⟩ := c
    have hk := h (k, v) (by simp)
    simp only [Memory.read]
    rw [if_neg (by simp at hk; omega)]
    exact ih fun d hd => h d (by simp [hd])

/-- What a write lists is what was listed, or the cell written. -/
theorem Memory.mem_write {m : Memory} {i : Nat} {v : Byte} {d : Host.Cell} (h : d ∈ Memory.write m i v) :
    d ∈ m ∨ d = (i, v) := by
  induction m with
  | nil =>
    simp only [Memory.write] at h
    split at h <;> simp_all
  | cons c m ih =>
    obtain ⟨k, w⟩ := c
    simp only [Memory.write] at h
    split at h
    · split at h <;> simp_all
      tauto
    · split at h
      · split at h <;> simp_all
        tauto
      · rcases List.mem_cons.1 h with h | h
        · simp [h]
        · rcases ih h with h | h <;> simp [h]

/-- A write keeps the canonical form. -/
theorem Memory.wf_write {m : Memory} (hm : Memory.wf m) (i : Nat) (v : Byte) : Memory.wf (Memory.write m i v) := by
  induction m with
  | nil =>
    simp only [Memory.write]
    split
    · exact Memory.wf_nil
    · rename_i h
      exact Memory.wf_cons.2 ⟨h, by simp, Memory.wf_nil⟩
  | cons c m ih =>
    obtain ⟨k, w⟩ := c
    obtain ⟨hw, hlt, hm'⟩ := Memory.wf_cons.1 hm
    simp only [Memory.write]
    split
    · rename_i hik
      split
      · exact hm
      · rename_i hv
        refine Memory.wf_cons.2 ⟨hv, ?_, hm⟩
        intro d hd
        rcases List.mem_cons.1 hd with rfl | hd
        · exact hik
        · exact Nat.lt_trans hik (hlt d hd)
    · split
      · rename_i hik
        split
        · exact hm'
        · rename_i hv
          exact Memory.wf_cons.2 ⟨hv, by simpa [hik] using hlt, hm'⟩
      · rename_i h1 h2
        refine Memory.wf_cons.2 ⟨hw, ?_, ih hm'⟩
        intro d hd
        rcases Memory.mem_write hd with hd | rfl
        · exact hlt d hd
        · simp only
          omega

/-- Reading one index after a write: the value written there, everything else as before. -/
theorem Memory.read_write {m : Memory} (hm : Memory.wf m) (i : Nat) (v : Byte) (j : Nat) :
    Memory.read (Memory.write m i v) j = if j = i then v else Memory.read m j := by
  induction m with
  | nil =>
    simp only [Memory.write]
    split
    · rename_i h
      simp [h]
    · simp only [Memory.read, eq_comm]
  | cons c m ih =>
    obtain ⟨k, w⟩ := c
    obtain ⟨_, hlt, hm'⟩ := Memory.wf_cons.1 hm
    simp only [Memory.write]
    split
    · rename_i hik
      have below : Memory.read ((k, w) :: m) i = blankByte :=
        Memory.read_of_lt fun d hd => by
          rcases List.mem_cons.1 hd with rfl | hd
          · exact hik
          · exact Nat.lt_trans hik (hlt d hd)
      split
      · rename_i hv
        split
        · rename_i hj
          rw [hj, below, hv]
        · rfl
      · rw [Memory.read]
        simp only [eq_comm]
    · split
      · rename_i hik
        subst hik
        have above : Memory.read m i = blankByte := Memory.read_of_lt (by simpa using hlt)
        split
        · rename_i hv
          simp only [Memory.read]
          split
          · rename_i hj
            rw [hj, above, hv]
          · rename_i hj
            rw [if_neg (Ne.symm hj)]
        · simp only [Memory.read, eq_comm]
          split <;> simp_all
      · rename_i h1 h2
        simp only [Memory.read, ih hm']
        split
        · rename_i hk
          rw [if_neg (by omega)]
        · rfl

/-- The index written reads as the value written. -/
theorem Memory.read_write_same {m : Memory} (hm : Memory.wf m) (i : Nat) (v : Byte) :
    Memory.read (Memory.write m i v) i = v := by simp [Memory.read_write hm]

/-- Every other index reads as before. -/
theorem Memory.read_write_other {m : Memory} (hm : Memory.wf m) {i j : Nat} (v : Byte) (h : j ≠ i) :
    Memory.read (Memory.write m i v) j = Memory.read m j := by simp [Memory.read_write hm, h]

end Sys2Proof.Machine
end

