-- ==== Sys2Proof/Laws/PerInstr.lean ====
section
/-! SUPPORT. Statements about every operation as syntax, one lemma per constructor. -/

namespace Sys2Proof.Laws.TableWord

/-- An operation's table word has no bit above the width its row of spec/opcode_table.json gives. -/
def Statement (i : Instr) : Prop := tableBits i < 2 ^ tableWidth i

theorem init : Statement .init := by unfold Statement; decide
theorem avail : Statement .avail := by unfold Statement; decide
theorem txrdy : Statement .txrdy := by unfold Statement; decide

theorem send (b : Byte) : Statement (.send b) := by
  have := b.isLt
  simp only [Statement, tableBits, tableWidth]
  omega

theorem recv : Statement .recv := by unfold Statement; decide

theorem alarm (d : Word32) : Statement (.alarm d) := by
  have := d.isLt
  simp only [Statement, tableBits, tableWidth]
  omega

theorem delay (d : Word32) : Statement (.delay d) := by
  have := d.isLt
  simp only [Statement, tableBits, tableWidth]
  omega

theorem isrEdge : Statement .isrEdge := by unfold Statement; decide
theorem isrCmpa : Statement .isrCmpa := by unfold Statement; decide
theorem isrCmpb : Statement .isrCmpb := by unfold Statement; decide
theorem tick : Statement .tick := by unfold Statement; decide

theorem rxline (l : Bit) : Statement (.rxline l) := by
  have := l.isLt
  simp only [Statement, tableBits, tableWidth]
  omega

theorem gie (v : Bit) : Statement (.gie v) := by
  have := v.isLt
  simp only [Statement, tableBits, tableWidth]
  omega

end Sys2Proof.Laws.TableWord
end

