-- ==== Sys2Proof/Laws/State.lean ====
section
/-! SUPPORT. One lemma per field of `State` and named update: what the update leaves alone, and what it writes. -/

namespace Sys2Proof.Machine

variable (s : State)

/-! ### `raise` -/

@[simp] theorem raise_cfg (c : Condition) : (raise c s).cfg = s.cfg := rfl
@[simp] theorem raise_initialized (c : Condition) : (raise c s).initialized = s.initialized := rfl
@[simp] theorem raise_cnt (c : Condition) : (raise c s).cnt = s.cnt := rfl
@[simp] theorem raise_top (c : Condition) : (raise c s).top = s.top := rfl
@[simp] theorem raise_cmpA (c : Condition) : (raise c s).cmpA = s.cmpA := rfl
@[simp] theorem raise_cmpB (c : Condition) : (raise c s).cmpB = s.cmpB := rfl
@[simp] theorem raise_ieA (c : Condition) : (raise c s).ieA = s.ieA := rfl
@[simp] theorem raise_ieB (c : Condition) : (raise c s).ieB = s.ieB := rfl
@[simp] theorem raise_edgeIe (c : Condition) : (raise c s).edgeIe = s.edgeIe := rfl
@[simp] theorem raise_edgeIf (c : Condition) : (raise c s).edgeIf = s.edgeIf := rfl
@[simp] theorem raise_txPin (c : Condition) : (raise c s).txPin = s.txPin := rfl
@[simp] theorem raise_rxPin (c : Condition) : (raise c s).rxPin = s.rxPin := rfl
@[simp] theorem raise_gie (c : Condition) : (raise c s).gie = s.gie := rfl
@[simp] theorem raise_txState (c : Condition) : (raise c s).txState = s.txState := rfl
@[simp] theorem raise_txBits (c : Condition) : (raise c s).txBits = s.txBits := rfl
@[simp] theorem raise_txShift (c : Condition) : (raise c s).txShift = s.txShift := rfl
@[simp] theorem raise_delayCounter (c : Condition) : (raise c s).delayCounter = s.delayCounter := rfl
@[simp] theorem raise_txOs (c : Condition) : (raise c s).txOs = s.txOs := rfl
@[simp] theorem raise_sendReady (c : Condition) : (raise c s).sendReady = s.sendReady := rfl
@[simp] theorem raise_rxState (c : Condition) : (raise c s).rxState = s.rxState := rfl
@[simp] theorem raise_rxBits (c : Condition) : (raise c s).rxBits = s.rxBits := rfl
@[simp] theorem raise_rxAcc (c : Condition) : (raise c s).rxAcc = s.rxAcc := rfl
@[simp] theorem raise_rxOs (c : Condition) : (raise c s).rxOs = s.rxOs := rfl
@[simp] theorem raise_available (c : Condition) : (raise c s).available = s.available := rfl
@[simp] theorem raise_recvByte (c : Condition) : (raise c s).recvByte = s.recvByte := rfl
@[simp] theorem raise_buf (c : Condition) : (raise c s).buf = s.buf := rfl
@[simp] theorem raise_head (c : Condition) : (raise c s).head = s.head := rfl
@[simp] theorem raise_tail (c : Condition) : (raise c s).tail = s.tail := rfl
@[simp] theorem raise_hold (c : Condition) : (raise c s).hold = s.hold := rfl
@[simp] theorem raise_program (c : Condition) : (raise c s).program = s.program := rfl
@[simp] theorem raise_envQueue (c : Condition) : (raise c s).envQueue = s.envQueue := rfl
@[simp] theorem raise_vector (c : Condition) : (raise c s).vector = s.vector := rfl
@[simp] theorem raise_turns (c : Condition) : (raise c s).turns = s.turns := rfl
@[simp] theorem raise_trace (c : Condition) : (raise c s).trace = s.trace ++ [.raised c] := rfl

/-! ### `return v` -/

@[simp] theorem giveBack_cfg (r : Returned) : (giveBack r s).cfg = s.cfg := rfl
@[simp] theorem giveBack_initialized (r : Returned) : (giveBack r s).initialized = s.initialized := rfl
@[simp] theorem giveBack_cnt (r : Returned) : (giveBack r s).cnt = s.cnt := rfl
@[simp] theorem giveBack_top (r : Returned) : (giveBack r s).top = s.top := rfl
@[simp] theorem giveBack_cmpA (r : Returned) : (giveBack r s).cmpA = s.cmpA := rfl
@[simp] theorem giveBack_cmpB (r : Returned) : (giveBack r s).cmpB = s.cmpB := rfl
@[simp] theorem giveBack_ieA (r : Returned) : (giveBack r s).ieA = s.ieA := rfl
@[simp] theorem giveBack_ieB (r : Returned) : (giveBack r s).ieB = s.ieB := rfl
@[simp] theorem giveBack_edgeIe (r : Returned) : (giveBack r s).edgeIe = s.edgeIe := rfl
@[simp] theorem giveBack_edgeIf (r : Returned) : (giveBack r s).edgeIf = s.edgeIf := rfl
@[simp] theorem giveBack_txPin (r : Returned) : (giveBack r s).txPin = s.txPin := rfl
@[simp] theorem giveBack_rxPin (r : Returned) : (giveBack r s).rxPin = s.rxPin := rfl
@[simp] theorem giveBack_gie (r : Returned) : (giveBack r s).gie = s.gie := rfl
@[simp] theorem giveBack_txState (r : Returned) : (giveBack r s).txState = s.txState := rfl
@[simp] theorem giveBack_txBits (r : Returned) : (giveBack r s).txBits = s.txBits := rfl
@[simp] theorem giveBack_txShift (r : Returned) : (giveBack r s).txShift = s.txShift := rfl
@[simp] theorem giveBack_delayCounter (r : Returned) : (giveBack r s).delayCounter = s.delayCounter := rfl
@[simp] theorem giveBack_txOs (r : Returned) : (giveBack r s).txOs = s.txOs := rfl
@[simp] theorem giveBack_sendReady (r : Returned) : (giveBack r s).sendReady = s.sendReady := rfl
@[simp] theorem giveBack_rxState (r : Returned) : (giveBack r s).rxState = s.rxState := rfl
@[simp] theorem giveBack_rxBits (r : Returned) : (giveBack r s).rxBits = s.rxBits := rfl
@[simp] theorem giveBack_rxAcc (r : Returned) : (giveBack r s).rxAcc = s.rxAcc := rfl
@[simp] theorem giveBack_rxOs (r : Returned) : (giveBack r s).rxOs = s.rxOs := rfl
@[simp] theorem giveBack_available (r : Returned) : (giveBack r s).available = s.available := rfl
@[simp] theorem giveBack_recvByte (r : Returned) : (giveBack r s).recvByte = s.recvByte := rfl
@[simp] theorem giveBack_buf (r : Returned) : (giveBack r s).buf = s.buf := rfl
@[simp] theorem giveBack_head (r : Returned) : (giveBack r s).head = s.head := rfl
@[simp] theorem giveBack_tail (r : Returned) : (giveBack r s).tail = s.tail := rfl
@[simp] theorem giveBack_hold (r : Returned) : (giveBack r s).hold = s.hold := rfl
@[simp] theorem giveBack_program (r : Returned) : (giveBack r s).program = s.program := rfl
@[simp] theorem giveBack_envQueue (r : Returned) : (giveBack r s).envQueue = s.envQueue := rfl
@[simp] theorem giveBack_vector (r : Returned) : (giveBack r s).vector = s.vector := rfl
@[simp] theorem giveBack_turns (r : Returned) : (giveBack r s).turns = s.turns := rfl
@[simp] theorem giveBack_trace (r : Returned) : (giveBack r s).trace = s.trace ++ [.returned r] := rfl

/-! ### `setTop` -/

@[simp] theorem setTop_cfg (p : Nat) : (setTop p s).cfg = s.cfg := rfl
@[simp] theorem setTop_initialized (p : Nat) : (setTop p s).initialized = s.initialized := rfl
@[simp] theorem setTop_cnt (p : Nat) : (setTop p s).cnt = s.cnt := rfl
@[simp] theorem setTop_top (p : Nat) : (setTop p s).top = p := rfl
@[simp] theorem setTop_cmpA (p : Nat) : (setTop p s).cmpA = s.cmpA := rfl
@[simp] theorem setTop_cmpB (p : Nat) : (setTop p s).cmpB = s.cmpB := rfl
@[simp] theorem setTop_ieA (p : Nat) : (setTop p s).ieA = s.ieA := rfl
@[simp] theorem setTop_ieB (p : Nat) : (setTop p s).ieB = s.ieB := rfl
@[simp] theorem setTop_edgeIe (p : Nat) : (setTop p s).edgeIe = s.edgeIe := rfl
@[simp] theorem setTop_edgeIf (p : Nat) : (setTop p s).edgeIf = s.edgeIf := rfl
@[simp] theorem setTop_txPin (p : Nat) : (setTop p s).txPin = s.txPin := rfl
@[simp] theorem setTop_rxPin (p : Nat) : (setTop p s).rxPin = s.rxPin := rfl
@[simp] theorem setTop_gie (p : Nat) : (setTop p s).gie = s.gie := rfl
@[simp] theorem setTop_txState (p : Nat) : (setTop p s).txState = s.txState := rfl
@[simp] theorem setTop_txBits (p : Nat) : (setTop p s).txBits = s.txBits := rfl
@[simp] theorem setTop_txShift (p : Nat) : (setTop p s).txShift = s.txShift := rfl
@[simp] theorem setTop_delayCounter (p : Nat) : (setTop p s).delayCounter = s.delayCounter := rfl
@[simp] theorem setTop_txOs (p : Nat) : (setTop p s).txOs = s.txOs := rfl
@[simp] theorem setTop_sendReady (p : Nat) : (setTop p s).sendReady = s.sendReady := rfl
@[simp] theorem setTop_rxState (p : Nat) : (setTop p s).rxState = s.rxState := rfl
@[simp] theorem setTop_rxBits (p : Nat) : (setTop p s).rxBits = s.rxBits := rfl
@[simp] theorem setTop_rxAcc (p : Nat) : (setTop p s).rxAcc = s.rxAcc := rfl
@[simp] theorem setTop_rxOs (p : Nat) : (setTop p s).rxOs = s.rxOs := rfl
@[simp] theorem setTop_available (p : Nat) : (setTop p s).available = s.available := rfl
@[simp] theorem setTop_recvByte (p : Nat) : (setTop p s).recvByte = s.recvByte := rfl
@[simp] theorem setTop_buf (p : Nat) : (setTop p s).buf = s.buf := rfl
@[simp] theorem setTop_head (p : Nat) : (setTop p s).head = s.head := rfl
@[simp] theorem setTop_tail (p : Nat) : (setTop p s).tail = s.tail := rfl
@[simp] theorem setTop_hold (p : Nat) : (setTop p s).hold = s.hold := rfl
@[simp] theorem setTop_program (p : Nat) : (setTop p s).program = s.program := rfl
@[simp] theorem setTop_envQueue (p : Nat) : (setTop p s).envQueue = s.envQueue := rfl
@[simp] theorem setTop_vector (p : Nat) : (setTop p s).vector = s.vector := rfl
@[simp] theorem setTop_turns (p : Nat) : (setTop p s).turns = s.turns := rfl
@[simp] theorem setTop_trace (p : Nat) : (setTop p s).trace = s.trace := rfl

/-! ### `armChannel` -/

@[simp] theorem armChannel_cfg (ch : Channel) (off : Nat) : (armChannel ch off s).cfg = s.cfg := by cases ch <;> rfl
@[simp] theorem armChannel_initialized (ch : Channel) (off : Nat) : (armChannel ch off s).initialized = s.initialized := by cases ch <;> rfl
@[simp] theorem armChannel_cnt (ch : Channel) (off : Nat) : (armChannel ch off s).cnt = s.cnt := by cases ch <;> rfl
@[simp] theorem armChannel_top (ch : Channel) (off : Nat) : (armChannel ch off s).top = s.top := by cases ch <;> rfl
@[simp] theorem armChannel_cmpA_A (off : Nat) : (armChannel .A off s).cmpA = (s.cnt + off) % s.cfg.P := rfl
@[simp] theorem armChannel_cmpA_B (off : Nat) : (armChannel .B off s).cmpA = s.cmpA := rfl
@[simp] theorem armChannel_cmpB_A (off : Nat) : (armChannel .A off s).cmpB = s.cmpB := rfl
@[simp] theorem armChannel_cmpB_B (off : Nat) : (armChannel .B off s).cmpB = (s.cnt + off) % s.cfg.P := rfl
@[simp] theorem armChannel_ieA (ch : Channel) (off : Nat) : (armChannel ch off s).ieA = s.ieA := by cases ch <;> rfl
@[simp] theorem armChannel_ieB (ch : Channel) (off : Nat) : (armChannel ch off s).ieB = s.ieB := by cases ch <;> rfl
@[simp] theorem armChannel_edgeIe (ch : Channel) (off : Nat) : (armChannel ch off s).edgeIe = s.edgeIe := by cases ch <;> rfl
@[simp] theorem armChannel_edgeIf (ch : Channel) (off : Nat) : (armChannel ch off s).edgeIf = s.edgeIf := by cases ch <;> rfl
@[simp] theorem armChannel_txPin (ch : Channel) (off : Nat) : (armChannel ch off s).txPin = s.txPin := by cases ch <;> rfl
@[simp] theorem armChannel_rxPin (ch : Channel) (off : Nat) : (armChannel ch off s).rxPin = s.rxPin := by cases ch <;> rfl
@[simp] theorem armChannel_gie (ch : Channel) (off : Nat) : (armChannel ch off s).gie = s.gie := by cases ch <;> rfl
@[simp] theorem armChannel_txState (ch : Channel) (off : Nat) : (armChannel ch off s).txState = s.txState := by cases ch <;> rfl
@[simp] theorem armChannel_txBits (ch : Channel) (off : Nat) : (armChannel ch off s).txBits = s.txBits := by cases ch <;> rfl
@[simp] theorem armChannel_txShift (ch : Channel) (off : Nat) : (armChannel ch off s).txShift = s.txShift := by cases ch <;> rfl
@[simp] theorem armChannel_delayCounter (ch : Channel) (off : Nat) : (armChannel ch off s).delayCounter = s.delayCounter := by cases ch <;> rfl
@[simp] theorem armChannel_txOs (ch : Channel) (off : Nat) : (armChannel ch off s).txOs = s.txOs := by cases ch <;> rfl
@[simp] theorem armChannel_sendReady (ch : Channel) (off : Nat) : (armChannel ch off s).sendReady = s.sendReady := by cases ch <;> rfl
@[simp] theorem armChannel_rxState (ch : Channel) (off : Nat) : (armChannel ch off s).rxState = s.rxState := by cases ch <;> rfl
@[simp] theorem armChannel_rxBits (ch : Channel) (off : Nat) : (armChannel ch off s).rxBits = s.rxBits := by cases ch <;> rfl
@[simp] theorem armChannel_rxAcc (ch : Channel) (off : Nat) : (armChannel ch off s).rxAcc = s.rxAcc := by cases ch <;> rfl
@[simp] theorem armChannel_rxOs (ch : Channel) (off : Nat) : (armChannel ch off s).rxOs = s.rxOs := by cases ch <;> rfl
@[simp] theorem armChannel_available (ch : Channel) (off : Nat) : (armChannel ch off s).available = s.available := by cases ch <;> rfl
@[simp] theorem armChannel_recvByte (ch : Channel) (off : Nat) : (armChannel ch off s).recvByte = s.recvByte := by cases ch <;> rfl
@[simp] theorem armChannel_buf (ch : Channel) (off : Nat) : (armChannel ch off s).buf = s.buf := by cases ch <;> rfl
@[simp] theorem armChannel_head (ch : Channel) (off : Nat) : (armChannel ch off s).head = s.head := by cases ch <;> rfl
@[simp] theorem armChannel_tail (ch : Channel) (off : Nat) : (armChannel ch off s).tail = s.tail := by cases ch <;> rfl
@[simp] theorem armChannel_hold (ch : Channel) (off : Nat) : (armChannel ch off s).hold = s.hold := by cases ch <;> rfl
@[simp] theorem armChannel_program (ch : Channel) (off : Nat) : (armChannel ch off s).program = s.program := by cases ch <;> rfl
@[simp] theorem armChannel_envQueue (ch : Channel) (off : Nat) : (armChannel ch off s).envQueue = s.envQueue := by cases ch <;> rfl
@[simp] theorem armChannel_vector (ch : Channel) (off : Nat) : (armChannel ch off s).vector = s.vector := by cases ch <;> rfl
@[simp] theorem armChannel_turns (ch : Channel) (off : Nat) : (armChannel ch off s).turns = s.turns := by cases ch <;> rfl
@[simp] theorem armChannel_trace (ch : Channel) (off : Nat) : (armChannel ch off s).trace = s.trace := by cases ch <;> rfl

/-! ### `enableChannel` -/

@[simp] theorem enableChannel_cfg (ch : Channel) : (enableChannel ch s).cfg = s.cfg := by cases ch <;> rfl
@[simp] theorem enableChannel_initialized (ch : Channel) : (enableChannel ch s).initialized = s.initialized := by cases ch <;> rfl
@[simp] theorem enableChannel_cnt (ch : Channel) : (enableChannel ch s).cnt = s.cnt := by cases ch <;> rfl
@[simp] theorem enableChannel_top (ch : Channel) : (enableChannel ch s).top = s.top := by cases ch <;> rfl
@[simp] theorem enableChannel_cmpA (ch : Channel) : (enableChannel ch s).cmpA = s.cmpA := by cases ch <;> rfl
@[simp] theorem enableChannel_cmpB (ch : Channel) : (enableChannel ch s).cmpB = s.cmpB := by cases ch <;> rfl
@[simp] theorem enableChannel_ieA_A : (enableChannel .A s).ieA = true := rfl
@[simp] theorem enableChannel_ieA_B : (enableChannel .B s).ieA = s.ieA := rfl
@[simp] theorem enableChannel_ieB_A : (enableChannel .A s).ieB = s.ieB := rfl
@[simp] theorem enableChannel_ieB_B : (enableChannel .B s).ieB = true := rfl
@[simp] theorem enableChannel_edgeIe (ch : Channel) : (enableChannel ch s).edgeIe = s.edgeIe := by cases ch <;> rfl
@[simp] theorem enableChannel_edgeIf (ch : Channel) : (enableChannel ch s).edgeIf = s.edgeIf := by cases ch <;> rfl
@[simp] theorem enableChannel_txPin (ch : Channel) : (enableChannel ch s).txPin = s.txPin := by cases ch <;> rfl
@[simp] theorem enableChannel_rxPin (ch : Channel) : (enableChannel ch s).rxPin = s.rxPin := by cases ch <;> rfl
@[simp] theorem enableChannel_gie (ch : Channel) : (enableChannel ch s).gie = s.gie := by cases ch <;> rfl
@[simp] theorem enableChannel_txState (ch : Channel) : (enableChannel ch s).txState = s.txState := by cases ch <;> rfl
@[simp] theorem enableChannel_txBits (ch : Channel) : (enableChannel ch s).txBits = s.txBits := by cases ch <;> rfl
@[simp] theorem enableChannel_txShift (ch : Channel) : (enableChannel ch s).txShift = s.txShift := by cases ch <;> rfl
@[simp] theorem enableChannel_delayCounter (ch : Channel) : (enableChannel ch s).delayCounter = s.delayCounter := by cases ch <;> rfl
@[simp] theorem enableChannel_txOs (ch : Channel) : (enableChannel ch s).txOs = s.txOs := by cases ch <;> rfl
@[simp] theorem enableChannel_sendReady (ch : Channel) : (enableChannel ch s).sendReady = s.sendReady := by cases ch <;> rfl
@[simp] theorem enableChannel_rxState (ch : Channel) : (enableChannel ch s).rxState = s.rxState := by cases ch <;> rfl
@[simp] theorem enableChannel_rxBits (ch : Channel) : (enableChannel ch s).rxBits = s.rxBits := by cases ch <;> rfl
@[simp] theorem enableChannel_rxAcc (ch : Channel) : (enableChannel ch s).rxAcc = s.rxAcc := by cases ch <;> rfl
@[simp] theorem enableChannel_rxOs (ch : Channel) : (enableChannel ch s).rxOs = s.rxOs := by cases ch <;> rfl
@[simp] theorem enableChannel_available (ch : Channel) : (enableChannel ch s).available = s.available := by cases ch <;> rfl
@[simp] theorem enableChannel_recvByte (ch : Channel) : (enableChannel ch s).recvByte = s.recvByte := by cases ch <;> rfl
@[simp] theorem enableChannel_buf (ch : Channel) : (enableChannel ch s).buf = s.buf := by cases ch <;> rfl
@[simp] theorem enableChannel_head (ch : Channel) : (enableChannel ch s).head = s.head := by cases ch <;> rfl
@[simp] theorem enableChannel_tail (ch : Channel) : (enableChannel ch s).tail = s.tail := by cases ch <;> rfl
@[simp] theorem enableChannel_hold (ch : Channel) : (enableChannel ch s).hold = s.hold := by cases ch <;> rfl
@[simp] theorem enableChannel_program (ch : Channel) : (enableChannel ch s).program = s.program := by cases ch <;> rfl
@[simp] theorem enableChannel_envQueue (ch : Channel) : (enableChannel ch s).envQueue = s.envQueue := by cases ch <;> rfl
@[simp] theorem enableChannel_vector (ch : Channel) : (enableChannel ch s).vector = s.vector := by cases ch <;> rfl
@[simp] theorem enableChannel_turns (ch : Channel) : (enableChannel ch s).turns = s.turns := by cases ch <;> rfl
@[simp] theorem enableChannel_trace (ch : Channel) : (enableChannel ch s).trace = s.trace := by cases ch <;> rfl

/-! ### `disableChannel` -/

@[simp] theorem disableChannel_cfg (ch : Channel) : (disableChannel ch s).cfg = s.cfg := by cases ch <;> rfl
@[simp] theorem disableChannel_initialized (ch : Channel) : (disableChannel ch s).initialized = s.initialized := by cases ch <;> rfl
@[simp] theorem disableChannel_cnt (ch : Channel) : (disableChannel ch s).cnt = s.cnt := by cases ch <;> rfl
@[simp] theorem disableChannel_top (ch : Channel) : (disableChannel ch s).top = s.top := by cases ch <;> rfl
@[simp] theorem disableChannel_cmpA (ch : Channel) : (disableChannel ch s).cmpA = s.cmpA := by cases ch <;> rfl
@[simp] theorem disableChannel_cmpB (ch : Channel) : (disableChannel ch s).cmpB = s.cmpB := by cases ch <;> rfl
@[simp] theorem disableChannel_ieA_A : (disableChannel .A s).ieA = false := rfl
@[simp] theorem disableChannel_ieA_B : (disableChannel .B s).ieA = s.ieA := rfl
@[simp] theorem disableChannel_ieB_A : (disableChannel .A s).ieB = s.ieB := rfl
@[simp] theorem disableChannel_ieB_B : (disableChannel .B s).ieB = false := rfl
@[simp] theorem disableChannel_edgeIe (ch : Channel) : (disableChannel ch s).edgeIe = s.edgeIe := by cases ch <;> rfl
@[simp] theorem disableChannel_edgeIf (ch : Channel) : (disableChannel ch s).edgeIf = s.edgeIf := by cases ch <;> rfl
@[simp] theorem disableChannel_txPin (ch : Channel) : (disableChannel ch s).txPin = s.txPin := by cases ch <;> rfl
@[simp] theorem disableChannel_rxPin (ch : Channel) : (disableChannel ch s).rxPin = s.rxPin := by cases ch <;> rfl
@[simp] theorem disableChannel_gie (ch : Channel) : (disableChannel ch s).gie = s.gie := by cases ch <;> rfl
@[simp] theorem disableChannel_txState (ch : Channel) : (disableChannel ch s).txState = s.txState := by cases ch <;> rfl
@[simp] theorem disableChannel_txBits (ch : Channel) : (disableChannel ch s).txBits = s.txBits := by cases ch <;> rfl
@[simp] theorem disableChannel_txShift (ch : Channel) : (disableChannel ch s).txShift = s.txShift := by cases ch <;> rfl
@[simp] theorem disableChannel_delayCounter (ch : Channel) : (disableChannel ch s).delayCounter = s.delayCounter := by cases ch <;> rfl
@[simp] theorem disableChannel_txOs (ch : Channel) : (disableChannel ch s).txOs = s.txOs := by cases ch <;> rfl
@[simp] theorem disableChannel_sendReady (ch : Channel) : (disableChannel ch s).sendReady = s.sendReady := by cases ch <;> rfl
@[simp] theorem disableChannel_rxState (ch : Channel) : (disableChannel ch s).rxState = s.rxState := by cases ch <;> rfl
@[simp] theorem disableChannel_rxBits (ch : Channel) : (disableChannel ch s).rxBits = s.rxBits := by cases ch <;> rfl
@[simp] theorem disableChannel_rxAcc (ch : Channel) : (disableChannel ch s).rxAcc = s.rxAcc := by cases ch <;> rfl
@[simp] theorem disableChannel_rxOs (ch : Channel) : (disableChannel ch s).rxOs = s.rxOs := by cases ch <;> rfl
@[simp] theorem disableChannel_available (ch : Channel) : (disableChannel ch s).available = s.available := by cases ch <;> rfl
@[simp] theorem disableChannel_recvByte (ch : Channel) : (disableChannel ch s).recvByte = s.recvByte := by cases ch <;> rfl
@[simp] theorem disableChannel_buf (ch : Channel) : (disableChannel ch s).buf = s.buf := by cases ch <;> rfl
@[simp] theorem disableChannel_head (ch : Channel) : (disableChannel ch s).head = s.head := by cases ch <;> rfl
@[simp] theorem disableChannel_tail (ch : Channel) : (disableChannel ch s).tail = s.tail := by cases ch <;> rfl
@[simp] theorem disableChannel_hold (ch : Channel) : (disableChannel ch s).hold = s.hold := by cases ch <;> rfl
@[simp] theorem disableChannel_program (ch : Channel) : (disableChannel ch s).program = s.program := by cases ch <;> rfl
@[simp] theorem disableChannel_envQueue (ch : Channel) : (disableChannel ch s).envQueue = s.envQueue := by cases ch <;> rfl
@[simp] theorem disableChannel_vector (ch : Channel) : (disableChannel ch s).vector = s.vector := by cases ch <;> rfl
@[simp] theorem disableChannel_turns (ch : Channel) : (disableChannel ch s).turns = s.turns := by cases ch <;> rfl
@[simp] theorem disableChannel_trace (ch : Channel) : (disableChannel ch s).trace = s.trace := by cases ch <;> rfl

/-! ### the counter's increment -/

@[simp] theorem countUp_cfg : (countUp s).cfg = s.cfg := rfl
@[simp] theorem countUp_initialized : (countUp s).initialized = s.initialized := rfl
@[simp] theorem countUp_cnt : (countUp s).cnt = (s.cnt + 1) % s.top := rfl
@[simp] theorem countUp_top : (countUp s).top = s.top := rfl
@[simp] theorem countUp_cmpA : (countUp s).cmpA = s.cmpA := rfl
@[simp] theorem countUp_cmpB : (countUp s).cmpB = s.cmpB := rfl
@[simp] theorem countUp_ieA : (countUp s).ieA = s.ieA := rfl
@[simp] theorem countUp_ieB : (countUp s).ieB = s.ieB := rfl
@[simp] theorem countUp_edgeIe : (countUp s).edgeIe = s.edgeIe := rfl
@[simp] theorem countUp_edgeIf : (countUp s).edgeIf = s.edgeIf := rfl
@[simp] theorem countUp_txPin : (countUp s).txPin = s.txPin := rfl
@[simp] theorem countUp_rxPin : (countUp s).rxPin = s.rxPin := rfl
@[simp] theorem countUp_gie : (countUp s).gie = s.gie := rfl
@[simp] theorem countUp_txState : (countUp s).txState = s.txState := rfl
@[simp] theorem countUp_txBits : (countUp s).txBits = s.txBits := rfl
@[simp] theorem countUp_txShift : (countUp s).txShift = s.txShift := rfl
@[simp] theorem countUp_delayCounter : (countUp s).delayCounter = s.delayCounter := rfl
@[simp] theorem countUp_txOs : (countUp s).txOs = s.txOs := rfl
@[simp] theorem countUp_sendReady : (countUp s).sendReady = s.sendReady := rfl
@[simp] theorem countUp_rxState : (countUp s).rxState = s.rxState := rfl
@[simp] theorem countUp_rxBits : (countUp s).rxBits = s.rxBits := rfl
@[simp] theorem countUp_rxAcc : (countUp s).rxAcc = s.rxAcc := rfl
@[simp] theorem countUp_rxOs : (countUp s).rxOs = s.rxOs := rfl
@[simp] theorem countUp_available : (countUp s).available = s.available := rfl
@[simp] theorem countUp_recvByte : (countUp s).recvByte = s.recvByte := rfl
@[simp] theorem countUp_buf : (countUp s).buf = s.buf := rfl
@[simp] theorem countUp_head : (countUp s).head = s.head := rfl
@[simp] theorem countUp_tail : (countUp s).tail = s.tail := rfl
@[simp] theorem countUp_hold : (countUp s).hold = s.hold := rfl
@[simp] theorem countUp_program : (countUp s).program = s.program := rfl
@[simp] theorem countUp_envQueue : (countUp s).envQueue = s.envQueue := rfl
@[simp] theorem countUp_vector : (countUp s).vector = s.vector := rfl
@[simp] theorem countUp_turns : (countUp s).turns = s.turns := rfl
@[simp] theorem countUp_trace : (countUp s).trace = s.trace := rfl

/-! ### the line's new level -/

@[simp] theorem setLine_cfg (l : Bit) : (setLine l s).cfg = s.cfg := rfl
@[simp] theorem setLine_initialized (l : Bit) : (setLine l s).initialized = s.initialized := rfl
@[simp] theorem setLine_cnt (l : Bit) : (setLine l s).cnt = s.cnt := rfl
@[simp] theorem setLine_top (l : Bit) : (setLine l s).top = s.top := rfl
@[simp] theorem setLine_cmpA (l : Bit) : (setLine l s).cmpA = s.cmpA := rfl
@[simp] theorem setLine_cmpB (l : Bit) : (setLine l s).cmpB = s.cmpB := rfl
@[simp] theorem setLine_ieA (l : Bit) : (setLine l s).ieA = s.ieA := rfl
@[simp] theorem setLine_ieB (l : Bit) : (setLine l s).ieB = s.ieB := rfl
@[simp] theorem setLine_edgeIe (l : Bit) : (setLine l s).edgeIe = s.edgeIe := rfl
@[simp] theorem setLine_edgeIf (l : Bit) : (setLine l s).edgeIf = if fallingEdge s.rxPin l then true else s.edgeIf := rfl
@[simp] theorem setLine_txPin (l : Bit) : (setLine l s).txPin = s.txPin := rfl
@[simp] theorem setLine_rxPin (l : Bit) : (setLine l s).rxPin = l := rfl
@[simp] theorem setLine_gie (l : Bit) : (setLine l s).gie = s.gie := rfl
@[simp] theorem setLine_txState (l : Bit) : (setLine l s).txState = s.txState := rfl
@[simp] theorem setLine_txBits (l : Bit) : (setLine l s).txBits = s.txBits := rfl
@[simp] theorem setLine_txShift (l : Bit) : (setLine l s).txShift = s.txShift := rfl
@[simp] theorem setLine_delayCounter (l : Bit) : (setLine l s).delayCounter = s.delayCounter := rfl
@[simp] theorem setLine_txOs (l : Bit) : (setLine l s).txOs = s.txOs := rfl
@[simp] theorem setLine_sendReady (l : Bit) : (setLine l s).sendReady = s.sendReady := rfl
@[simp] theorem setLine_rxState (l : Bit) : (setLine l s).rxState = s.rxState := rfl
@[simp] theorem setLine_rxBits (l : Bit) : (setLine l s).rxBits = s.rxBits := rfl
@[simp] theorem setLine_rxAcc (l : Bit) : (setLine l s).rxAcc = s.rxAcc := rfl
@[simp] theorem setLine_rxOs (l : Bit) : (setLine l s).rxOs = s.rxOs := rfl
@[simp] theorem setLine_available (l : Bit) : (setLine l s).available = s.available := rfl
@[simp] theorem setLine_recvByte (l : Bit) : (setLine l s).recvByte = s.recvByte := rfl
@[simp] theorem setLine_buf (l : Bit) : (setLine l s).buf = s.buf := rfl
@[simp] theorem setLine_head (l : Bit) : (setLine l s).head = s.head := rfl
@[simp] theorem setLine_tail (l : Bit) : (setLine l s).tail = s.tail := rfl
@[simp] theorem setLine_hold (l : Bit) : (setLine l s).hold = s.hold := rfl
@[simp] theorem setLine_program (l : Bit) : (setLine l s).program = s.program := rfl
@[simp] theorem setLine_envQueue (l : Bit) : (setLine l s).envQueue = s.envQueue := rfl
@[simp] theorem setLine_vector (l : Bit) : (setLine l s).vector = s.vector := rfl
@[simp] theorem setLine_turns (l : Bit) : (setLine l s).turns = s.turns := rfl
@[simp] theorem setLine_trace (l : Bit) : (setLine l s).trace = s.trace := rfl

end Sys2Proof.Machine
end

