-- ==== Sys2Proof/Tests/Slice0.lean ====
section
/-! SUPPORT. The model's own tests, with expected results from spec/ (95_test_vectors.md unless a test says otherwise), and, for
every statement with hypotheses, a state and operands that meet them. -/

namespace Sys2Proof.Tests

open Sys2Proof Sys2Proof.Machine

/-! ## Helpers -/

/-- The outcome is a next state with `p`. -/
def after (r : Result) (p : State → Bool) : Bool :=
  match r with
  | .next t => p t
  | .fault _ => false
  | .refused _ => false

/-- The outcome is the refusal `q`. -/
def refusedBy (r : Result) (q : Refusal) : Bool :=
  match r with
  | .next _ => false
  | .fault _ => false
  | .refused p => decide (p = q)

/-- The state after reset with interrupts on. -/
def idle : State := { State.reset with gie := true }

/-- `idle` right after `SEND 0x55` at `cnt = 5` (vector T1). -/
def sending : State :=
  { idle with cnt := 5, cmpA := 5, txShift := 0x55#8, txState := .sendStart, sendReady := false, txOs := 1, ieA := true }

/-- `idle` with a frame under way in the receiver (vector X1). -/
def receiving : State :=
  { idle with cmpB := 104, ieB := true, edgeIe := false, rxPin := 0#1, rxState := .armedForStart }

/-- A small block at the edges of R5: `P = 2^CNT_BITS`, `C = 2`. -/
def tiny : Config := { P := 4, N := 3, fTick := 1, rxVariant := .ring, C := 2, cntBits := 2 }

/-- The reference configuration with the `Single` variant. -/
def single : Config := { Config.reference with rxVariant := .single }

/-- `idle` with a delay that has `n` periods to go. -/
def delaying (n : Word32) : State :=
  { idle with txState := .timedDelay, sendReady := false, ieA := true, delayCounter := n }

/-- `receiving` at the stop bit, with the line at `l` and the byte 0x55 assembled. -/
def atStop (l : Bit) : State := { receiving with rxState := .checkStop, rxAcc := 0x55#8, rxPin := l }

/-- `idle` with the three bytes of vector Q3 in the ring: full. -/
def full : State := { idle with buf := [(0, 0x11#8), (1, 0x22#8), (2, 0x33#8)], head := 3 }

/-- `idle` with a foreground that holds for `h` and has the turn. -/
def holding (h : Hold) : State := { sending with hold := some h, turns := [.foreground] }

/-! ## WellFormed: one ill-formed term for each check (R5, R141) -/

theorem test_valid_reference : Config.reference.valid = true ∧ tiny.valid = true ∧ single.valid = true := by decide
theorem test_refuses_P_below_2 : { Config.reference with P := 1 }.periodOk = false := by decide
theorem test_refuses_P_beyond_counter : { Config.reference with P := 257 }.periodOk = false := by decide
theorem test_refuses_no_counter_bits : { Config.reference with P := 2, cntBits := 0 }.periodOk = false := by decide
theorem test_refuses_N_zero : { Config.reference with N := 0 }.oversamplingOk = false := by decide
theorem test_refuses_tick_rate_zero : { Config.reference with fTick := 0 }.tickRateOk = false := by decide
theorem test_refuses_C_below_2 : { Config.reference with C := 1 }.capacityOk = false := by decide
theorem test_refuses_C_beyond_256 : { Config.reference with C := 257 }.capacityOk = false := by decide
theorem test_single_has_no_capacity : { single with C := 0 }.capacityOk = true := by decide
theorem test_refuses_each_whole :
    { Config.reference with P := 1 }.valid = false ∧ { Config.reference with N := 0 }.valid = false ∧
    { Config.reference with fTick := 0 }.valid = false ∧ { Config.reference with C := 1 }.valid = false := by decide

/-- A10, A11. -/
theorem test_wellFormed_alarm :
    Instr.wellFormed Config.reference (.alarm 446676598#32) = true ∧
    Instr.wellFormed Config.reference (.alarm 446676599#32) = false ∧
    Instr.wellFormed Config.reference (.delay 446676599#32) = false := by decide

/-! ## Decoding: words written out bit by bit from R84 to R87 and R92 (Y5 to Y10) -/

theorem test_decode_init : decode (.command [0b00000000#8]) = some .init := by decide
theorem test_decode_avail : decode (.command [0b00000001#8]) = some .avail := by decide
theorem test_decode_txrdy : decode (.command [0b00000010#8]) = some .txrdy := by decide
theorem test_decode_send : decode (.command [0b00000011#8, 0b01010101#8]) = some (.send 0x55#8) := by decide
theorem test_decode_recv : decode (.command [0b00000100#8]) = some .recv := by decide

/-- `imm32 = 1000 = 0x3E8`, least significant byte first. -/
theorem test_decode_alarm :
    decode (.command [0b00000101#8, 0b11101000#8, 0b00000011#8, 0b00000000#8, 0b00000000#8]) = some (.alarm 1000#32) := by decide

/-- Byte 4 of the command is bits 31 to 24 of the operand. -/
theorem test_decode_delay_high_byte :
    decode (.command [0b00000110#8, 0b00000001#8, 0b00000000#8, 0b00000000#8, 0b10000000#8]) =
      some (.delay 0x80000001#32) := by decide

theorem test_decode_vectors :
    decode (.vector 0b01#2) = some .isrEdge ∧ decode (.vector 0b10#2) = some .isrCmpa ∧
    decode (.vector 0b11#2) = some .isrCmpb ∧ decode (.vector 0b00#2) = none := by decide

/-- The selector stands in bits 1 and 0, the argument in bit 2. -/
theorem test_decode_environment :
    decode (.environment 0b000#3) = some .tick ∧ decode (.environment 0b001#3) = some (.rxline 0#1) ∧
    decode (.environment 0b101#3) = some (.rxline 1#1) ∧ decode (.environment 0b010#3) = some (.gie 0#1) ∧
    decode (.environment 0b110#3) = some (.gie 1#1) ∧ decode (.environment 0b011#3) = none ∧
    decode (.environment 0b100#3) = none := by decide

theorem test_decode_reserved :
    decodeCommand [0x07#8] = .bad (.reservedOpcode 0x07#8) ∧ decodeCommand [0xFF#8] = .bad (.reservedOpcode 0xFF#8) := by decide

theorem test_decode_cut_short : decodeCommand [0x05#8, 0xE8#8, 0x03#8] = .bad (.truncated 0x05#8) := by decide

/-- The command of P4 in a stream: `DELAY 1`, and the bytes after it are left. -/
theorem test_decode_stream :
    decodeCommand [0x06#8, 0x01#8, 0x00#8, 0x00#8, 0x00#8, 0x03#8, 0x00#8] = .command (.delay 1#32) [0x03#8, 0x00#8] := by decide

/-- Table words: bits 15 to 8 are the second byte. -/
theorem test_table_words :
    decodeTableWord 16 0x5503 = some (.send 0x55#8) ∧ decodeTableWord 40 0x000003E805 = some (.alarm 1000#32) ∧
    decodeTableWord 2 0 = some .tick ∧ decodeTableWord 2 3 = some .isrCmpb ∧ decodeTableWord 3 6 = some (.gie 1#1) ∧
    decodeTableWord 8 7 = none := by decide

/-! ## Steps: at most two small tests for each operation -/

/-- Y4: the frame is cut short, the line high at once. -/
theorem test_init_aborts :
    after (exec .init { sending with gie := false, txPin := 0#1 }) (fun t =>
      decide (t.txPin = 1#1 ∧ t.txState = .idle ∧ t.sendReady = true ∧ t.cnt = 0 ∧ t.ieA = false)) = true := by decide

/-- Y2. -/
theorem test_init_refused : refusedBy (exec .init idle) .initWithInterruptsEnabled = true := by decide

/-- Q6: `(1 - 3) mod 4`. -/
theorem test_avail_ring :
    after (exec .avail { idle with head := 1, tail := 3 }) (fun t => decide (t.trace = [.returned (.count 2#8)])) = true := by
  decide

/-- Q9. -/
theorem test_avail_single :
    after (exec .avail { idle with cfg := single, available := .framingError })
      (fun t => decide (t.trace = [.returned (.count 2#8)] ∧ t.available = .framingError)) = true := by decide

/-- T7. -/
theorem test_txrdy_ready :
    after (exec .txrdy State.reset) (fun t => decide (t.trace = [.returned (.ready 1#1)])) = true := by decide

/-- T1: not ready while a frame is under way. -/
theorem test_txrdy_busy : after (exec .txrdy sending) (fun t => decide (t.trace = [.returned (.ready 0#1)])) = true := by decide

/-- T1, right after `SEND`. -/
theorem test_send : after (exec (.send 0x55#8) { idle with cnt := 5, txOs := 7 }) (fun t => decide (t = sending)) = true := by decide

/-- T8: the second `SEND` is held. -/
theorem test_send_holds :
    after (exec (.send 0xAA#8) sending) (fun t => decide (t = { sending with hold := some (.send 0xAA#8) })) = true := by decide

/-- Q4: the oldest byte. -/
theorem test_recv_ring :
    after (exec .recv full) (fun t => decide (t.trace = [.returned (.byte 0x11#8)] ∧ t.tail = 1)) = true := by decide

/-- Q8: a framing error is no byte to receive. -/
theorem test_recv_single_holds :
    after (exec .recv { idle with cfg := single, available := .framingError, recvByte := 0x41#8 })
      (fun t => decide (t.hold = some .recv ∧ t.trace = [] ∧ t.available = .framingError)) = true := by decide

/-- A2. -/
theorem test_alarm :
    after (exec (.alarm 1#32) { idle with cnt := 5 }) (fun t =>
      decide (t.cmpA = 85 ∧ t.txOs = 1 ∧ t.delayCounter = 9#32 ∧ t.txState = .timedDelay ∧ t.sendReady = false)) = true := by decide

/-- A8: `N = 2`, `P = 104`. -/
theorem test_alarm_oversampled :
    after (exec (.alarm 2#32) { idle with cfg := { Config.reference with P := 104, N := 2 }, top := 104, cnt := 5 })
      (fun t => decide (t.cmpA = 61 ∧ t.txOs = 2 ∧ t.delayCounter = 19#32)) = true := by decide

/-- A13. -/
theorem test_delay :
    after (exec (.delay 1#32) idle) (fun t =>
      decide (t.cmpA = 80 ∧ t.delayCounter = 9#32 ∧ t.hold = some .delayReturn)) = true := by decide

/-- A11. -/
theorem test_delay_refused : refusedBy (exec (.delay 446676599#32) idle) .periodCountTooLarge = true := by decide

/-- X2: the compare value wraps. -/
theorem test_isrEdge :
    after (exec .isrEdge { idle with cnt := 150, rxPin := 0#1, edgeIf := true }) (fun t =>
      decide (t.cmpB = 46 ∧ t.rxOs = 1 ∧ t.ieB = true ∧ t.edgeIe = false ∧ t.rxState = .armedForStart)) = true := by decide

/-- X6. -/
theorem test_isrEdge_spurious :
    after (exec .isrEdge { idle with edgeIf := true }) (fun t =>
      decide (t.edgeIf = false ∧ t.rxState = .idle ∧ t.edgeIe = true ∧ t.trace = [.raised .spuriousEdge])) = true := by decide

/-- T1, tick 209. -/
theorem test_isrCmpa_data :
    after (exec .isrCmpa { sending with txState := .sendData, txBits := 8, txPin := 0#1 }) (fun t =>
      decide (t.txPin = 1#1 ∧ t.txShift = 0x2A#8 ∧ t.txBits = 7 ∧ t.txState = .sendData)) = true := by decide

/-- A1: the counter stays 0 and the delay ends. -/
theorem test_isrCmpa_delay_zero :
    after (exec .isrCmpa (delaying 0#32)) (fun t =>
      decide (t.delayCounter = 0#32 ∧ t.sendReady = true ∧ t.txState = .idle ∧ t.ieA = false)) = true := by decide

/-- X1, tick 1353: the sample 0 after 0xA8. -/
theorem test_isrCmpb_data :
    after (exec .isrCmpb { receiving with rxState := .sampleData, rxBits := 3, rxAcc := 0xA8#8 }) (fun t =>
      decide (t.rxAcc = 0x54#8 ∧ t.rxBits = 2)) = true := by decide

/-- X1, tick 1977. -/
theorem test_isrCmpb_stop :
    after (exec .isrCmpb (atStop 1#1)) (fun t =>
      decide (t.trace = [.raised (.rxByte 0x55#8)] ∧ t.buf = [(0, 0x55#8)] ∧ t.head = 1 ∧ t.ieB = false ∧
        t.edgeIe = true ∧ t.rxState = .idle)) = true := by decide

/-- B3. -/
theorem test_tick_wraps_and_fires :
    after (exec .tick { sending with cnt := 207, cmpA := 207 })
      (fun t => decide (t.cnt = 0 ∧ t.txPin = 0#1 ∧ t.txState = .sendData ∧ t.txBits = 8)) = true := by decide

/-- B4: the match on 0 is in the next tick. -/
theorem test_tick_before_match :
    after (exec .tick { sending with cnt := 207, cmpA := 0 }) (fun t => decide (t.cnt = 0 ∧ t.txState = .sendStart)) = true := by
  decide

/-- X1, tick 0. -/
theorem test_rxline_starts :
    after (exec (.rxline 0#1) idle) (fun t => decide (t = receiving)) = true := by decide

/-- X3: latched, not served. -/
theorem test_rxline_latches :
    after (exec (.rxline 0#1) { receiving with rxPin := 1#1 })
      (fun t => decide (t = { receiving with edgeIf := true })) = true := by decide

/-- X7. -/
theorem test_gie_serves :
    after (exec (.gie 1#1) { State.reset with cnt := 60, rxPin := 0#1, edgeIf := true })
      (fun t => decide (t.cmpB = 164 ∧ t.rxState = .armedForStart ∧ t.edgeIf = false)) = true := by decide

/-- B6: the lost match is not made up for. -/
theorem test_gie_runs_no_compare_handler :
    after (exec (.gie 1#1) { sending with gie := false }) (fun t => decide (t = sending)) = true := by decide

/-- Q3 and Q7: the byte that does not fit is dropped. -/
theorem test_ring_overflow :
    after (deliver 0x44#8 full) (fun t => decide (t = { full with trace := [.raised (.rxOverflow 0x44#8)] })) = true := by decide

/-- Q2. -/
theorem test_single_overwrite :
    after (deliver 0x42#8 { idle with cfg := single, available := .byte, recvByte := 0x41#8 }) (fun t =>
      decide (t.recvByte = 0x42#8 ∧ t.trace = [.raised (.rxOverwrite 0x41#8 0x42#8), .raised (.rxByte 0x42#8)])) = true := by decide

/-- R61's edge: the last slot and the first index that is none. -/
theorem test_memory_edge :
    after (memWrite 3 0xFF#8 idle) (fun t => decide (t.buf = [(3, 0xFF#8)])) = true ∧
    memWrite 4 0xFF#8 idle = .fault (.ringIndexOutOfRange 4) := ⟨by decide, rfl⟩

/-- Writing what an unlisted slot reads as removes the entry. -/
theorem test_memory_canonical :
    Memory.write [(0, 0x11#8), (2, 0x33#8)] 0 0#8 = [(2, 0x33#8)] ∧
    Memory.write [(0, 0x11#8), (2, 0x33#8)] 1 0x22#8 = [(0, 0x11#8), (1, 0x22#8), (2, 0x33#8)] := by decide

theorem test_reset_memory_wf : Memory.wf State.reset.buf := by decide

/-- R89 to R91, R220: the codes. -/
theorem test_codes :
    TxState.timedDelay.code = 5 ∧ RxState.checkStop.code = 3 ∧ Available.framingError.code = 2 ∧
    Condition.spuriousEdge.code = 4 := by decide

/-- P1's first command, stepped: the foreground's `TXRDY` is performed and consumed. -/
theorem test_step_command :
    after (step { idle with program := [0x02#8, 0x04#8] }) (fun t =>
      decide (t.program = [0x04#8] ∧ t.trace = [.returned (.ready 1#1)])) = true := by decide

/-- Y3. -/
theorem test_step_before_init :
    refusedBy (step { State.powerOn idle with program := [0x03#8, 0x55#8] }) .beforeInit = true := by decide

/-- Y9, stepped. -/
theorem test_step_reserved : refusedBy (step { idle with program := [0xFF#8] }) (.reservedOpcode 0xFF#8) = true := by decide

theorem test_withFetchWord :
    after (step (State.reset.withFetchWord 16 0x5503)) (fun t => decide (t.txShift = 0x55#8 ∧ t.txState = .sendStart)) = true ∧
    after (step (State.reset.withFetchWord 2 0)) (fun t => decide (t.cnt = 1)) = true ∧
    after (step (State.reset.withFetchWord 3 1)) (fun t => decide (t.rxPin = 0#1 ∧ t.edgeIf = true)) = true := by decide

/-! ## Witnesses: for each statement with hypotheses, values that meet them, clause by clause -/

theorem witness_DecodeAndEncodeAgree :
    decode (.command [0x03#8, 0xFF#8]) = some (.send 0xFF#8) ∧ encode (.send 0xFF#8) = .command [0x03#8, 0xFF#8] ∧
    decodeCommand ([0x03#8, 0xFF#8] ++ [0x07#8]) = .command (.send 0xFF#8) [0x07#8] := by decide

/-- Opcodes 7 and 255 from outside, 6 from inside; one byte short, exactly long enough; both in the foreground's hands. -/
theorem witness_ReservedOpcodesAreRefused :
    (7 ≤ (0x07#8).toNat ∧ 7 ≤ (0xFF#8).toNat) ∧
    ((0x06#8).toNat < 7 ∧ [0#8, 0#8, 0#8].length + 1 < commandLength 0x06#8) ∧
    commandLength 0x06#8 ≤ [0#8, 0#8, 0#8, 0#8].length + 1 ∧
    (idle.vector = none ∧ mover { idle with program := [0x07#8] } = .foreground ∧ idle.hold = none) ∧
    mover { idle with program := [0x06#8, 0#8] } = .foreground := by decide

theorem witness_EventsAndEnvironmentWords :
    (0b101#3).extractLsb' 0 2 = 1#2 ∧ (0b110#3).extractLsb' 0 2 = 2#2 ∧
    decodeCommand [0x04#8] = .command .recv [] := by decide

theorem witness_StepPerformsTheDecodedCommand :
    idle.vector = none ∧ mover { idle with program := [0x05#8, 0xE8#8, 0x03#8, 0#8, 0#8, 0x02#8] } = .foreground ∧
    idle.hold = none ∧ decodeCommand [0x05#8, 0xE8#8, 0x03#8, 0#8, 0#8, 0x02#8] = .command (.alarm 1000#32) [0x02#8] := by decide

theorem witness_StepPerformsTheEnvironmentWord :
    idle.vector = none ∧ mover { idle with envQueue := [0b101#3] } = .environment ∧ decodeEnv 0b101#3 = some (.rxline 1#1) ∧
    (mover idle = .environment ∧ idle.envQueue = []) ∧
    mover { idle with envQueue := [0b011#3] } = .environment ∧ decodeEnv 0b011#3 = none := by decide

theorem witness_StepPerformsTheVector : decodeVector 0b01#2 = some .isrEdge ∧ decodeVector 0b11#2 = some .isrCmpb := by decide

theorem witness_PlacedWordRunsNext : isHostOp .init = true ∧ isHostOp (.gie 1#1) = false := by decide

/-- A hold for a byte, for the transmit side, and at the largest operand that is not refused. -/
theorem witness_HeldForegroundSpins :
    (mover (holding .recv) = .foreground ∧ Live (holding .recv) ∧ holdLifted .recv (holding .recv) = false) ∧
    (mover (holding (.alarm 446676598#32)) = .foreground ∧ holdLifted (.alarm 446676598#32) sending = false ∧
      periodsFit sending.cfg 446676598#32 = true) ∧
    holdLifted .delayReturn sending = false := by decide

theorem witness_LiftedHoldPerformsItsBody :
    (holdLifted (.send 0#8) idle = true ∧ holdLifted (.alarm 0#32) idle = true ∧ holdLifted (.delay 0#32) idle = true ∧
      holdLifted .delayReturn idle = true ∧ holdLifted .recv full = true) ∧
    mover { idle with hold := some (.send 0#8) } = .foreground ∧ mover { full with hold := some .recv } = .foreground ∧
    Live full ∧ full.vector = none := by decide

theorem witness_HostOperationsWaitBehindAHold :
    Live (holding .recv) ∧ (holding .recv).hold = some .recv ∧ isHostOp (.send 1#8) = true := by decide

/-- One refused operation for each disjunct, and one that is not. -/
theorem witness_OperationsAreRefusedOnlyByR12 :
    refusedBy (exec .tick { idle with cfg := { Config.reference with P := 1 } }) .parametersOutOfRange = true ∧
    refusedBy (exec .init idle) .initWithInterruptsEnabled = true ∧
    refusedBy (exec .recv (State.powerOn idle)) .beforeInit = true ∧
    refusedBy (exec (.alarm 446676599#32) idle) .periodCountTooLarge = true ∧
    after (exec (.alarm 446676598#32) idle) (fun t => decide (t.delayCounter = 4294967288#32)) = true := by decide

/-- The edges of R5, inside and outside. -/
theorem witness_NoStepOutsideTheParameters :
    tiny.valid = true ∧ tiny.P = 2 ^ tiny.cntBits ∧ tiny.C = 2 ∧
    { tiny with P := 5 }.valid = false ∧ { tiny with C := 257 }.valid = false ∧ { tiny with C := 256 }.valid = true ∧
    { tiny with C := 0, rxVariant := .single }.valid = true := by decide

theorem witness_InitLeavesTheStateOfR50 :
    (sending.cfg.valid = true ∧ sending.hold = none ∧ sending.gie = true) ∧ ({ sending with gie := false } : State).hold = none ∧
    single.valid = true ∧ single.rxVariant = .single ∧ tiny.rxVariant = .ring := by decide

theorem witness_InitGivesTheResetState :
    (sending.cfg.valid = true ∧ ({ sending with gie := false } : State).gie = false) ∧ sending.gie = true := by decide

theorem witness_BeforeTheFirstInit :
    (State.powerOn sending).cfg.valid = true ∧ (State.powerOn sending).initialized = false ∧ isHostOp .avail = true := by decide

/-- Neither, A alone, B alone, both (B7). -/
theorem witness_TickRunsTheMatchingHandlers :
    Live idle ∧
    ¬(idle.cnt = idle.cmpA ∧ idle.ieA = true ∧ idle.gie = true) ∧
    (sending.cnt = sending.cmpA ∧ sending.ieA = true ∧ sending.gie = true ∧ sending.ieB = false) ∧
    (let s := { receiving with cnt := 104 }; s.cnt = s.cmpB ∧ s.ieB = true ∧ s.gie = true ∧ s.ieA = false) ∧
    let s := { sending with cnt := 9, cmpA := 9, cmpB := 9, ieB := true }
    s.cnt = s.cmpA ∧ s.cnt = s.cmpB ∧ s.ieA = true ∧ s.ieB = true ∧ s.gie = true := by decide

theorem witness_TickAlwaysCompletes :
    Invariant { sending with cnt := 207 } ∧ Invariant sending ∧ sending.initialized = true := by
  repeat' apply And.intro
  all_goals decide

/-- B9's first match, and the edges `k = 0` and `k = P - 1`. -/
theorem witness_PeriodLaw :
    Invariant { sending with cnt := 20, cmpA := 23 } ∧ (20 + 3) % 208 = 23 ∧
    Invariant { sending with cnt := 0, cmpA := 207 } ∧ Invariant { receiving with cnt := 104 } ∧
    after (ticks 3 { sending with cnt := 20, cmpA := 23 }) (fun t => fires .A t && decide (t.cmpA = 23)) = true := by
  repeat' apply And.intro
  all_goals decide

theorem witness_TxrdyReturnsSendReady : Ready idle ∧ Invariant idle ∧ Ready sending ∧ Invariant sending := by
  repeat' apply And.intro
  all_goals decide

theorem witness_SendQueuesTheByte :
    (Ready idle ∧ idle.sendReady = true) ∧ Ready sending ∧ sending.sendReady = false := by decide

theorem witness_ChannelAHandlerCountsDown :
    Live { sending with txOs := 2 } ∧ (Live idle ∧ idle.txOs ≤ 1 ∧ idle.txState = .idle) := by decide

/-- The data arm at its last bit and at the one before. -/
theorem witness_TransmitArms :
    (Live sending ∧ sending.txOs ≤ 1 ∧ sending.txState = .sendStart) ∧
    (let s := { sending with txState := .sendData, txBits := 2 }; Live s ∧ s.txOs ≤ 1 ∧ 1 < s.txBits) ∧
    (let s := { sending with txState := .sendData, txBits := 1 }; Live s ∧ s.txOs ≤ 1 ∧ s.txBits = 1) ∧
    Live { sending with txState := .sendStop } ∧ Live { sending with txState := .finishing } := by decide

theorem witness_TransmitWaveform :
    Running idle ∧ idle.hold = none ∧ idle.sendReady = true ∧
    (∀ i ∈ [Instr.tick, .rxline 0#1, .tick], isTickOrLine i = true) ∧ 1 ≤ [Instr.tick, .rxline 0#1, .tick].count .tick := by
  repeat' apply And.intro
  all_goals decide

theorem witness_TransmitBusyTime : Running idle ∧ idle.hold = none ∧ idle.sendReady = true := by
  repeat' apply And.intro
  all_goals decide

theorem witness_OnlyInitAborts :
    isHostOp .avail = true ∧ sending.sendReady = false ∧ after (exec .avail sending) (fun _ => true) = true := by decide

theorem witness_MillisecondConversion : Ready idle ∧ idle.sendReady = true ∧ 2 ^ 32 ≤ wholePeriods idle.cfg 446676599#32 := by decide

theorem witness_AlarmStartsThePeriod :
    Ready idle ∧ wholePeriods idle.cfg 446676598#32 < 2 ^ 32 ∧ idle.sendReady = true ∧
    Ready sending ∧ sending.sendReady = false := by decide

theorem witness_DelayIsAlarmThenHold :
    (Ready idle ∧ wholePeriods idle.cfg 446676598#32 < 2 ^ 32 ∧ idle.sendReady = true) ∧
    (Ready sending ∧ sending.sendReady = false) ∧
    let s := { idle with hold := some .delayReturn, turns := [.foreground] }
    s.vector = none ∧ mover s = .foreground ∧ Live s ∧ s.hold = some .delayReturn ∧ s.sendReady = true := by decide

theorem witness_TimedDelayArm :
    (Live (delaying 2#32) ∧ (delaying 2#32).txOs ≤ 1 ∧ (delaying 2#32).txState = .timedDelay ∧
      1 < (delaying 2#32).delayCounter.toNat) ∧
    (delaying 1#32).delayCounter.toNat ≤ 1 ∧ (delaying 0#32).delayCounter.toNat ≤ 1 := by decide

/-- A1's and A2's ends of the period. -/
theorem witness_DelayBusyTime :
    Running idle ∧ idle.hold = none ∧ idle.sendReady = true ∧ wholePeriods idle.cfg 446676598#32 < 2 ^ 32 ∧
    delayEnd Config.reference 0#32 = 1 ∧ delayEnd Config.reference 1#32 = 1745 ∧
    (∀ i ∈ [Instr.tick, .rxline 0#1], isTickOrLine i = true) := by
  repeat' apply And.intro
  all_goals decide

theorem witness_RxlineLatchesTheEdge :
    (Live idle ∧ idle.rxPin = 1#1 ∧ idle.edgeIe = true ∧ idle.gie = true) ∧
    (Live receiving ∧ ¬(receiving.edgeIe = true)) ∧
    let s := { State.reset with edgeIf := true }; Live s ∧ s.edgeIf = true ∧ s.edgeIe = true ∧ ¬(s.gie = true) := by decide

theorem witness_EdgeHandlerArmsTheReceiver :
    Live { idle with rxPin := 0#1 } ∧ Live idle ∧ idle.rxPin = 1#1 := by decide

theorem witness_ReceiveArms :
    (Live { receiving with rxOs := 2 }) ∧ (idle.rxOs ≤ 1 ∧ idle.rxState = .idle) ∧
    (Live receiving ∧ receiving.rxOs ≤ 1 ∧ receiving.rxState = .armedForStart) ∧
    (let s := { receiving with rxState := .sampleData, rxBits := 2 }; Live s ∧ s.rxOs ≤ 1 ∧ 1 < s.rxBits) ∧
    let s := { receiving with rxState := .sampleData, rxBits := 1 }; Live s ∧ s.rxOs ≤ 1 ∧ s.rxBits = 1 := by decide

/-- A ring with room, a full ring, and the `Single` variant. -/
theorem witness_GoodStopBitDelivers :
    (Invariant (atStop 1#1) ∧ (atStop 1#1).initialized = true ∧ (atStop 1#1).rxOs ≤ 1 ∧ (atStop 1#1).rxPin = 1#1) ∧
    Invariant { atStop 1#1 with buf := full.buf, head := 3 } ∧
    Invariant { atStop 1#1 with cfg := single, available := .byte } := by
  repeat' apply And.intro
  all_goals decide

theorem witness_LowStopBitIsAFramingError :
    Live (atStop 0#1) ∧ (atStop 0#1).rxOs ≤ 1 ∧ (atStop 0#1).rxState = .checkStop ∧ (atStop 0#1).rxPin = 0#1 := by decide

/-- The edges `n = 0` and the stop bit's tick of R169. -/
theorem witness_SamplingInstants :
    Running idle ∧ idle.rxState = .idle ∧ idle.rxPin = 1#1 ∧
    halfBit idle.cfg + 1 = 105 ∧ halfBit idle.cfg + 1 + 9 * bitTicks idle.cfg = 1977 := by
  repeat' apply And.intro
  all_goals decide

/-- X10: the glitch delivers 0xFF. -/
theorem witness_ReceptionDeliversTheByte :
    Running idle ∧ idle.rxState = .idle ∧ idle.rxPin = 1#1 ∧
    ∀ j, 1 ≤ j → j ≤ 9 → (fun _ : Nat => 1#1) (halfBit idle.cfg + 1 + j * bitTicks idle.cfg) = frameBit 0xFF#8 j := by
  refine ⟨by decide, by decide, by decide, fun j h1 h9 => ?_⟩
  have h : ∀ j < 10, 1 ≤ j → frameBit 0xFF#8 j = 1#1 := by decide
  exact (h j (by omega) h1).symm
theorem witness_LowStopBitOnTheLine :
    Running idle ∧ idle.rxState = .idle ∧ idle.rxPin = 1#1 ∧
    (fun _ : Nat => 0#1) (halfBit idle.cfg + 1 + 9 * bitTicks idle.cfg) = 0#1 := by
  repeat' apply And.intro
  all_goals decide

theorem witness_AvailReturnsTheCount :
    (Ready { idle with cfg := single } ∧ single.rxVariant = .single) ∧
    Ready full ∧ full.cfg.rxVariant = .ring ∧ full.head < full.cfg.C ∧ full.tail < full.cfg.C := by decide

theorem witness_RecvConsumesTheByte :
    (Ready { idle with cfg := single, available := .byte }) ∧ (Ready { idle with cfg := single } ∧ idle.available ≠ .byte) ∧
    (Ready full ∧ full.cfg.rxVariant = .ring ∧ full.head ≠ full.tail ∧ full.tail < full.cfg.C) ∧
    (Ready idle ∧ idle.head = idle.tail) := by decide

theorem witness_RingSlotReadsBack : Memory.wf full.buf ∧ 3 < full.cfg.C ∧ full.cfg.C ≤ 4 := by decide

/-- Full, empty, and a stop bit with room and without. -/
theorem witness_RingIsAFifo :
    (Invariant full ∧ full.initialized = true ∧ full.cfg.rxVariant = .ring ∧ full.hold = none ∧
      contents full = [0x11#8, 0x22#8, 0x33#8]) ∧
    (Invariant idle ∧ contents idle = []) ∧
    (Invariant (atStop 1#1) ∧ (contents (atStop 1#1)).length < (atStop 1#1).cfg.C - 1) ∧
    (let s := { atStop 1#1 with buf := full.buf, head := 3 }; Invariant s ∧ ¬((contents s).length < s.cfg.C - 1)) ∧
    after (exec .tick full) (fun _ => true) = true := by
  repeat' apply And.intro
  all_goals decide

theorem witness_GieServesALatchedEdge :
    (let s := { State.reset with edgeIf := true }; Live s ∧ s.edgeIf = true ∧ s.edgeIe = true) ∧
    Live State.reset ∧ ¬(State.reset.edgeIf = true ∧ State.reset.edgeIe = true) := by decide

theorem witness_EveryStepKeepsTheInvariant :
    Invariant sending ∧ after (step sending) (fun t => decide (t.txPin = 0#1)) = true ∧
    after (exec .isrCmpa sending) (fun _ => true) = true := by
  repeat' apply And.intro
  all_goals decide

theorem witness_NoStepFaultsUnderTheInvariant : Invariant full ∧ Invariant (State.powerOn idle) := by
  repeat' apply And.intro
  all_goals decide

theorem witness_NoStepReprogramsTheBlock :
    Invariant sending ∧ sending.initialized = true ∧ after (step sending) (fun _ => true) = true := by
  repeat' apply And.intro
  all_goals decide

theorem witness_TransmitSideFrame :
    after (exec .isrCmpa sending) (fun t => decide (t.txPin = 0#1)) = true ∧
    after (exec (.send 1#8) idle) (fun t => decide (t.txState = .sendStart)) = true ∧
    after (exec (.delay 1#32) idle) (fun t => decide (t.delayCounter = 9#32)) = true ∧
    after (exec .txrdy idle) (fun _ => true) = true := by decide

theorem witness_ReceiveSideFrame :
    after (exec .isrCmpb (atStop 1#1)) (fun t => decide (t.head = 1)) = true ∧
    after (exec (.rxline 0#1) idle) (fun t => decide (t.ieB = true)) = true ∧
    after (exec .recv full) (fun t => decide (t.tail = 1)) = true ∧
    after (exec .isrEdge receiving) (fun _ => true) = true ∧ after (exec .avail full) (fun _ => true) = true := by decide

theorem witness_HandlersLeaveTheForegroundAlone :
    isHostOp .tick = false ∧ after (exec .tick (holding .recv)) (fun t => decide (t.hold = some .recv)) = true := by decide

theorem witness_HandlerOrderIsUnobservable : Live { sending with cmpB := 5, ieB := true } := by decide

theorem witness_TransmitAndReceiveCommute : Invariant sending ∧ Invariant (atStop 1#1) ∧ idle.initialized = true := by
  repeat' apply And.intro
  all_goals decide

theorem witness_ContextsWriteTheirOwnFields :
    (isHostOp .recv = true ∧ after (exec .recv full) (fun _ => true) = true) ∧
    isHostOp .tick = false ∧ after (exec .tick sending) (fun _ => true) = true := by decide

theorem witness_CompareValuesStayWhileRunning :
    (Invariant sending ∧ sending.ieA = true ∧ after (exec .tick sending) (fun _ => true) = true) ∧
    (Invariant receiving ∧ receiving.ieB = true ∧ after (exec (.rxline 1#1) receiving) (fun _ => true) = true) := by
  repeat' apply And.intro
  all_goals decide

theorem witness_TheTraceOnlyGrows :
    after (exec .recv full) (fun t => decide (t.trace = [.returned (.byte 0x11#8)])) = true ∧
    after (step sending) (fun t => decide (t.trace = [])) = true := by decide

end Sys2Proof.Tests
end

section
/-! SUPPORT. Which operations are refused (00_scope.md R12), and what a turn of the foreground does during a hold (R11). -/

namespace Sys2Proof.Machine

/-! ## The parameters -/

/-- R5's constraints, spelled out. -/
theorem config_valid_iff (c : Config) : c.valid = true ↔
    (2 ≤ c.P ∧ c.P ≤ 2 ^ c.cntBits ∧ 1 ≤ c.cntBits ∧ 1 ≤ c.N ∧ 1 ≤ c.fTick ∧
     (c.rxVariant = .ring → 2 ≤ c.C ∧ c.C ≤ 256)) := by
  cases hv : c.rxVariant <;>
    simp [Config.valid, Config.periodOk, Config.oversamplingOk, Config.tickRateOk, Config.capacityOk, hv, and_assoc]

/-! ## The guard of each kind of operation -/

theorem hostOp_invalid {s : State} (h : s.cfg.valid = false) (i : Instr) (k : State → Result) :
    hostOp i s k = .refused .parametersOutOfRange := by rw [hostOp, afterInit, onBlock_invalid h]

theorem blockStep_invalid {s : State} (h : s.cfg.valid = false) (early : State → State) (k : State → Result) :
    blockStep early s k = .refused .parametersOutOfRange := by rw [blockStep, onBlock_invalid h]

/-- `INIT` is behind the guard of R12 and that of R210. -/
theorem exec_init (s : State) :
    exec .init s = onBlock s fun s => if s.gie then .refused .initWithInterruptsEnabled else .next (initState s) := rfl

/-- Every host operation other than `INIT` is behind the guard of R11, R12 and R251. -/
theorem exec_eq_hostOp {i : Instr} (hh : isHostOp i = true) (hn : i ≠ .init) : ∃ k, ∀ s, exec i s = hostOp i s k := by
  cases i with
  | init => exact absurd rfl hn
  | avail | txrdy | send | recv | alarm | delay => exact ⟨_, fun _ => rfl⟩
  | isrEdge | isrCmpa | isrCmpb | tick | rxline | gie => cases hh

/-- Every handler and environment step is behind the guard of R12 and R251. -/
theorem exec_eq_blockStep {i : Instr} (hh : isHostOp i = false) :
    ∃ early k, ∀ s, exec i s = blockStep early s k := by
  cases i with
  | init | avail | txrdy | send | recv | alarm | delay => cases hh
  | isrEdge | isrCmpa | isrCmpb | tick | rxline | gie => exact ⟨_, _, fun _ => rfl⟩

/-- Outside R5 every operation is refused (R12). -/
theorem exec_invalid {s : State} (h : s.cfg.valid = false) (i : Instr) : exec i s = .refused .parametersOutOfRange := by
  by_cases hn : i = .init
  · rw [hn, exec_init, onBlock_invalid h]
  · cases hh : isHostOp i with
    | true =>
      obtain ⟨k, hk⟩ := exec_eq_hostOp hh hn
      rw [hk, hostOp_invalid h]
    | false =>
      obtain ⟨early, k, hk⟩ := exec_eq_blockStep hh
      rw [hk, blockStep_invalid h]

/-- Before the first `INIT` every other host operation is refused (R251). -/
theorem exec_hostOp_early {i : Instr} {s : State} (hh : isHostOp i = true) (hn : i ≠ .init) (hv : s.cfg.valid = true)
    (hi : s.initialized = false) : exec i s = .refused .beforeInit := by
  obtain ⟨k, hk⟩ := exec_eq_hostOp hh hn
  rw [hk, hostOp, afterInit_early hv hi]

/-- During a hold every host operation but `INIT` waits in the program (R11, log 6). -/
theorem exec_hostOp_held {i : Instr} {s : State} {h : Hold} (hl : Live s) (hold : s.hold = some h)
    (hh : isHostOp i = true) (hn : i ≠ .init) : exec i s = .next { s with program := commandBytes i ++ s.program } := by
  obtain ⟨k, hk⟩ := exec_eq_hostOp hh hn
  rw [hk, hostOp_held hl hold]

/-! ## Refusing -/

/-- The result is a refusal. -/
def Refuses (r : Result) : Prop := ∃ q, r = .refused q

@[simp] theorem refuses_refused (q : Refusal) : Refuses (.refused q) := ⟨q, rfl⟩
@[simp] theorem not_refuses_next (s : State) : ¬Refuses (.next s) := fun ⟨_, h⟩ => nomatch h
@[simp] theorem not_refuses_fault (f : Fault) : ¬Refuses (.fault f) := fun ⟨_, h⟩ => nomatch h

theorem refuses_holdUntil (c : Bool) (h : Hold) (s : State) (k : State → Result) :
    Refuses (holdUntil c h s k) ↔ c = true ∧ Refuses (k s) := by
  cases c <;> simp

theorem refuses_periodsOrRefuse {d : Word32} {s : State} {k : State → Result} (hk : ¬Refuses (k s)) :
    Refuses (periodsOrRefuse d s k) ↔ 2 ^ 32 ≤ wholePeriods s.cfg d := by
  rcases Nat.lt_or_ge (wholePeriods s.cfg d) (2 ^ 32) with hw | hw
  · rw [periodsOrRefuse_fit hw]
    exact iff_of_false hk (Nat.not_le.2 hw)
  · rw [periodsOrRefuse_large hw]
    exact iff_of_true (refuses_refused _) hw

/-- `RECV`'s body can fault (R61) but not refuse. -/
theorem not_refuses_recvBody (s : State) : ¬Refuses (recvBody s) := by
  unfold recvBody memRead
  split
  · simp
  · split <;> simp

theorem not_refuses_tickBody (s : State) : ¬Refuses (tickBody s) := by
  rintro ⟨q, h⟩
  unfold tickBody at h
  cases hA : fires .A s <;> cases hB : fires .B s <;>
    simp [hA, hB, isrCmpb_never_refuses] at h

/-- Inside R5 `INIT` is refused exactly with interrupts enabled (R210). -/
theorem refuses_init {s : State} (hv : s.cfg.valid = true) : Refuses (exec .init s) ↔ s.gie = true := by
  rw [exec_init, onBlock_valid hv]
  cases s.gie <;> simp

/-- Inside R5 no handler and no environment step is refused. -/
theorem not_refuses_event {i : Instr} {s : State} (hh : isHostOp i = false) (hv : s.cfg.valid = true) :
    ¬Refuses (exec i s) := by
  cases hi : s.initialized with
  | false =>
    obtain ⟨early, k, hk⟩ := exec_eq_blockStep hh
    rw [hk, blockStep_early hv hi]
    exact not_refuses_next _
  | true =>
    have hl : Live s := ⟨hv, hi⟩
    cases i with
    | init | avail | txrdy | send | recv | alarm | delay => cases hh
    | isrEdge => simp [exec_isrEdge hl]
    | isrCmpa => simp [exec_isrCmpa hl]
    | isrCmpb =>
      rw [exec_isrCmpb hl]
      exact fun ⟨q, h⟩ => isrCmpb_never_refuses s q h
    | tick =>
      rw [exec_tick hl]
      exact not_refuses_tickBody s
    | rxline l => simp [exec_rxline hl, serveEdge_eq]
    | gie v => simp [exec_gie hl, serveEdge_eq]

/-- A foreground that is ready is refused only for a period count that does not fit (R141). -/
theorem refuses_hostOp_ready {i : Instr} {s : State} (hr : Ready s) (hh : isHostOp i = true) (hn : i ≠ .init) :
    Refuses (exec i s) ↔ ∃ d, (i = .alarm d ∨ i = .delay d) ∧ 2 ^ 32 ≤ wholePeriods s.cfg d := by
  cases i with
  | init => exact absurd rfl hn
  | isrEdge | isrCmpa | isrCmpb | tick | rxline | gie => cases hh
  | avail => simp [exec_avail hr]
  | txrdy => simp [exec_txrdy hr]
  | send b => simp [exec_send hr, refuses_holdUntil]
  | recv => simp [exec_recv hr, refuses_holdUntil, not_refuses_recvBody]
  | alarm d =>
    rw [exec_alarm hr, refuses_periodsOrRefuse (by simp [refuses_holdUntil])]
    simp
  | delay d =>
    rw [exec_delay hr, refuses_periodsOrRefuse (by simp [refuses_holdUntil])]
    simp

/-! ## The foreground's turn during a hold -/

/-- On its turn a held foreground re-tests its hold, from the state with the turn taken and the hold taken out (R11). -/
theorem step_held {s : State} {h : Hold} (hv : s.vector = none) (hm : mover s = .foreground) (hh : s.hold = some h) :
    step s = resumeHold h { s with turns := s.turns.tail, hold := none } := by
  simp [step, nextMove, hv, hm, foregroundMove, takeTurn, hh, perform]

theorem holdUntil_waits {c : Bool} (hc : c = false) (h : Hold) (s : State) (k : State → Result) :
    holdUntil c h s k = .next { s with hold := some h } := by rw [hc, holdUntil_false]

theorem holdUntil_lifted {c : Bool} (hc : c = true) (h : Hold) (s : State) (k : State → Result) :
    holdUntil c h s k = k s := by rw [hc, holdUntil_true]

theorem periodsOrRefuse_fits {d : Word32} {s : State} (h : periodsFit s.cfg d = true) (k : State → Result) :
    periodsOrRefuse d s k = k s := periodsOrRefuse_fit (of_decide_eq_true h) k

/-- On a live block `DELAY`'s second hold tests `send_ready` and then returns (R147). -/
theorem delayReturn_live {s : State} (hl : Live s) :
    delayReturn s = holdUntil s.sendReady .delayReturn s fun s => .next s := by rw [delayReturn, afterInit_live hl]

/-- A hold whose condition is false goes on. -/
theorem resumeHold_waits {s : State} {h : Hold} (hr : Ready s) (hw : holdLifted h s = false)
    (hd : ∀ d, h = .alarm d ∨ h = .delay d → periodsFit s.cfg d = true) :
    resumeHold h s = .next { s with hold := some h } := by
  cases h with
  | send b => exact (exec_send hr b).trans (holdUntil_waits hw _ _ _)
  | recv => exact (exec_recv hr).trans (holdUntil_waits hw _ _ _)
  | alarm d =>
    exact (exec_alarm hr d).trans ((periodsOrRefuse_fits (hd d (.inl rfl)) _).trans (holdUntil_waits hw _ _ _))
  | delay d =>
    exact (exec_delay hr d).trans ((periodsOrRefuse_fits (hd d (.inr rfl)) _).trans (holdUntil_waits hw _ _ _))
  | delayReturn => exact (delayReturn_live hr.1).trans (holdUntil_waits hw _ _ _)

/-- Outside R5 a hold is not re-tested either (R12). -/
theorem resumeHold_invalid {s : State} (hv : s.cfg.valid = false) (h : Hold) :
    resumeHold h s = .refused .parametersOutOfRange := by
  cases h with
  | send b => exact exec_invalid hv (.send b)
  | recv => exact exec_invalid hv .recv
  | alarm d => exact exec_invalid hv (.alarm d)
  | delay d => exact exec_invalid hv (.delay d)
  | delayReturn => rw [resumeHold, delayReturn, afterInit, onBlock_invalid hv]

/-- Outside R5 no step has a successor (R12). -/
theorem refuses_step_invalid {s : State} (hv : s.cfg.valid = false) : Refuses (step s) := by
  unfold step
  cases hm : nextMove s with
  | issue i u =>
    have hu : u.cfg = s.cfg := (congrArg State.cfg (nextMove_state (.inl ⟨i, hm⟩)) :)
    exact ⟨_, exec_invalid (hu ▸ hv) i⟩
  | resume h u =>
    have hu : u.cfg = s.cfg := (congrArg State.cfg (nextMove_state (.inr (.inl ⟨h, hm⟩))) :)
    exact ⟨_, resumeHold_invalid (hu ▸ hv) h⟩
  | rest u =>
    have hu : u.cfg = s.cfg := (congrArg State.cfg (nextMove_state (.inr (.inr hm))) :)
    exact ⟨_, onBlock_invalid (hu ▸ hv) _⟩
  | reject r => exact refuses_refused r

/-! ## Refusals and holds: the obligations -/

/-- Settles O14, by the guards in turn: the parameters, the kind of operation, the first `INIT`, the hold, the operand. -/
theorem operationsAreRefusedOnlyByR12 : Obligations.OperationsAreRefusedOnlyByR12 := by
  intro i s
  change Refuses (exec i s) ↔ _
  cases hv : s.cfg.valid with
  | false => simp [exec_invalid hv]
  | true =>
    by_cases hn : i = .init
    · subst hn
      simp [refuses_init hv]
    · cases hh : isHostOp i with
      | false =>
        have hd : ∀ d, ¬(i = .alarm d ∨ i = .delay d) := by
          rintro d (rfl | rfl) <;> cases hh
        simp [not_refuses_event hh hv, hn, hd]
      | true =>
        cases hi : s.initialized with
        | false => simp [exec_hostOp_early hh hn hv hi, hn]
        | true =>
          cases hold : s.hold with
          | some h => simp [exec_hostOp_held ⟨hv, hi⟩ hold hh hn, hn, hold]
          | none =>
            simp [refuses_hostOp_ready ⟨⟨hv, hi⟩, hold⟩ hh hn, Ready, Live, hv, hi, hold, hn]

/-- Settles O15: the constraints are `valid` spelled out, and every move of the machine keeps the parameters its guard tests. -/
theorem noStepOutsideTheParameters : Obligations.NoStepOutsideTheParameters :=
  ⟨config_valid_iff, fun _ hv => ⟨exec_invalid hv, refuses_step_invalid hv⟩⟩

/-- Settles O11: the turn re-tests the hold, which puts itself back. -/
theorem heldForegroundSpins : Obligations.HeldForegroundSpins := by
  intro s h hv hm hl hh hw hd
  have hr : Ready { s with turns := s.turns.tail, hold := none } := ⟨hl, rfl⟩
  have hw' : holdLifted h { s with turns := s.turns.tail, hold := none } = false := by
    cases h <;> exact hw
  rw [step_held hv hm hh, resumeHold_waits hr hw' hd, ← hh]

/-- Settles O12: re-testing a hold is performing its operation again, and `DELAY`'s second hold just ends. -/
theorem liftedHoldPerformsItsBody : Obligations.LiftedHoldPerformsItsBody := by
  intro s h hv hm hl hh hw
  rw [step_held hv hm hh]
  cases h with
  | send | recv | alarm | delay => rfl
  | delayReturn =>
    have hl' : Live { s with turns := s.turns.tail, hold := none } := hl
    exact (delayReturn_live hl').trans (holdUntil_lifted hw _ _ _)

/-- Settles O13: the guard of R11 stands before the operation's own meaning. -/
theorem hostOperationsWaitBehindAHold : Obligations.HostOperationsWaitBehindAHold :=
  fun _ _ _ hl hold hh hn => exec_hostOp_held hl hold hh hn

end Sys2Proof.Machine
end

section
/-! SUPPORT. What the channel-B handler can do, and that the observation trace only grows (00_scope.md R13, R14). -/

namespace Sys2Proof.Machine

/-- Everything `Deliver` can do (R195, R196). -/
theorem deliver_eq_next {b : Byte} {s t : State} (h : deliver b s = .next t) :
    (s.cfg.rxVariant = .single ∧ t = deliverSingle b s) ∨
    (s.cfg.rxVariant = .ring ∧ ringFull s = true ∧ t = raise (.rxOverflow b) s) ∨
    (s.cfg.rxVariant = .ring ∧ ringFull s = false ∧ s.head < s.cfg.C ∧
      t = raise (.rxByte b) { s with buf := Memory.write s.buf s.head b, head := nextIndex s.cfg s.head }) := by
  cases hv : s.cfg.rxVariant with
  | single =>
    simp only [deliver, hv] at h
    cases h
    exact .inl ⟨rfl, rfl⟩
  | ring =>
    simp only [deliver, hv, deliverRing] at h
    cases hf : ringFull s with
    | true =>
      rw [if_pos hf] at h
      cases h
      exact .inr (.inl ⟨rfl, rfl, rfl⟩)
    | false =>
      simp only [hf, Bool.false_eq_true, if_false, memWrite] at h
      split at h <;> cases h
      exact .inr (.inr ⟨rfl, rfl, ‹_›, rfl⟩)

/-- Everything the channel-B handler can do (R164 to R168). -/
theorem isrCmpb_eq_next {s t : State} (h : isrCmpb s = .next t) :
    (1 < s.rxOs ∧ t = { s with rxOs := s.rxOs - 1 }) ∨
    (s.rxOs ≤ 1 ∧
      ((s.rxState = .idle ∧ t = { s with rxOs := s.cfg.N }) ∨
       (s.rxState = .armedForStart ∧ t = rxArmedForStart { s with rxOs := s.cfg.N }) ∨
       (s.rxState = .sampleData ∧ t = rxSampleData s.rxPin { s with rxOs := s.cfg.N }) ∨
       (s.rxState = .checkStop ∧ ∃ u, t = rxRelease u ∧
         ((s.rxPin = 1#1 ∧ deliver s.rxAcc { s with rxOs := s.cfg.N } = .next u) ∨
          (s.rxPin ≠ 1#1 ∧ u = recordFramingError { s with rxOs := s.cfg.N }))))) := by
  by_cases hos : 1 < s.rxOs
  · rw [isrCmpb, if_pos hos] at h
    cases h
    exact .inl ⟨hos, rfl⟩
  · refine .inr ⟨Nat.not_lt.1 hos, ?_⟩
    rw [isrCmpb, if_neg hos] at h
    cases hs : s.rxState <;> simp only [rxAdvance, hs] at h
    case idle =>
      cases h
      exact .inl ⟨rfl, by simp⟩
    case armedForStart =>
      cases h
      exact .inr (.inl ⟨rfl, rfl⟩)
    case sampleData =>
      cases h
      exact .inr (.inr (.inl ⟨rfl, by simp⟩))
    case checkStop =>
      obtain ⟨u, hu, ht⟩ := thenDo_eq_next.1 h
      cases ht
      refine .inr (.inr (.inr ⟨rfl, u, rfl, ?_⟩))
      split at hu
      · exact .inl ⟨‹_›, hu⟩
      · cases hu
        exact .inr ⟨‹_›, rfl⟩

/-! ## The trace -/

@[simp] theorem sendBody_trace (b : Byte) (s : State) : (sendBody b s).trace = s.trace := rfl

@[simp] theorem alarmBody_trace (d : Word32) (s : State) : (alarmBody d s).trace = s.trace := rfl

@[simp] theorem initState_trace (s : State) : (initState s).trace = s.trace := rfl

@[simp] theorem rxRelease_trace (s : State) : (rxRelease s).trace = s.trace := rfl

@[simp] theorem rxSampleData_trace (smp : Bit) (s : State) : (rxSampleData smp s).trace = s.trace := by
  simp only [rxSampleData]
  split <;> rfl

theorem trace_prefix_raise (c : Condition) (s : State) : s.trace <+: (raise c s).trace := List.prefix_append _ _

theorem trace_prefix_giveBack (r : Returned) (s : State) : s.trace <+: (giveBack r s).trace := List.prefix_append _ _

theorem trace_prefix_isrEdge (s : State) : s.trace <+: (isrEdge s).trace := by
  simp only [isrEdge]
  split
  · simp
  · exact trace_prefix_raise _ _

theorem trace_prefix_deliverSingle (b : Byte) (s : State) : s.trace <+: (deliverSingle b s).trace := by
  by_cases ha : s.available = .byte <;> simp [deliverSingle, ha]

theorem trace_prefix_deliver {b : Byte} {s t : State} (h : deliver b s = .next t) : s.trace <+: t.trace := by
  obtain ⟨-, rfl⟩ | ⟨-, -, rfl⟩ | ⟨-, -, -, rfl⟩ := deliver_eq_next h
  · exact trace_prefix_deliverSingle b s
  · exact trace_prefix_raise _ _
  · exact trace_prefix_raise _ _

theorem trace_prefix_recordFramingError (s : State) : s.trace <+: (recordFramingError s).trace := by
  rw [recordFramingError_frame]
  exact List.prefix_append _ _

theorem trace_prefix_isrCmpb {s t : State} (h : isrCmpb s = .next t) : s.trace <+: t.trace := by
  obtain ⟨-, rfl⟩ | ⟨-, ⟨-, rfl⟩ | ⟨-, rfl⟩ | ⟨-, rfl⟩ | ⟨-, u, rfl, ⟨-, hu⟩ | ⟨-, rfl⟩⟩⟩ := isrCmpb_eq_next h
  · exact List.prefix_rfl
  · exact List.prefix_rfl
  · exact List.prefix_rfl
  · rw [rxSampleData_trace]
  · rw [rxRelease_trace]
    exact trace_prefix_deliver (s := { s with rxOs := s.cfg.N }) hu
  · exact trace_prefix_recordFramingError { s with rxOs := s.cfg.N }

theorem trace_prefix_recvBody {s t : State} (h : recvBody s = .next t) : s.trace <+: t.trace := by
  obtain ⟨-, rfl⟩ | ⟨-, -, rfl⟩ := recvBody_eq_next h
  · exact trace_prefix_giveBack _ { s with available := .none }
  · exact trace_prefix_giveBack _ { s with tail := nextIndex s.cfg s.tail }

theorem trace_prefix_tickBody {s t : State} (h : tickBody s = .next t) : s.trace <+: t.trace := by
  obtain ⟨u, hu, ht⟩ := tickBody_eq_next h
  have hsu : u.trace = s.trace := by
    obtain ⟨-, rfl⟩ | ⟨-, rfl⟩ := hu <;> simp
  obtain ⟨-, rfl⟩ | ⟨-, hb⟩ := ht
  · rw [hsu]
  · exact hsu ▸ trace_prefix_isrCmpb hb

/-- A delivered edge request or none: the trace grows from a state with the trace of `s`. -/
theorem trace_prefix_ite_isrEdge (c : Bool) (s : State) : s.trace <+: (if c then isrEdge s else s).trace := by
  cases c
  · exact List.prefix_rfl
  · exact trace_prefix_isrEdge s

theorem trace_prefix_exec_event {i : Instr} {s t : State} (hh : isHostOp i = false) (h : exec i s = .next t) :
    s.trace <+: t.trace := by
  obtain ⟨-, -, early⟩ | ⟨-, live⟩ := exec_event_eq_next hh h
  · obtain rfl | ⟨l, -, rfl⟩ | ⟨v, -, rfl⟩ := early <;> exact List.prefix_rfl
  · obtain ⟨-, rfl⟩ | ⟨-, rfl⟩ | ⟨-, hb⟩ | ⟨-, ht⟩ | ⟨l, -, rfl⟩ | ⟨v, -, rfl⟩ := live
    · exact trace_prefix_isrEdge s
    · rw [isrCmpa_trace]
    · exact trace_prefix_isrCmpb hb
    · exact trace_prefix_tickBody ht
    · exact trace_prefix_ite_isrEdge _ (setLine l s)
    · exact trace_prefix_ite_isrEdge _ { s with gie := decide (v = 1#1) }

theorem trace_prefix_exec_hostOp {i : Instr} {s t : State} (hh : isHostOp i = true) (hn : i ≠ .init)
    (h : exec i s = .next t) : s.trace <+: t.trace := by
  obtain ⟨-, ⟨-, rfl⟩ | ⟨-, done⟩⟩ := exec_hostOp_eq_next hh hn h
  · exact List.prefix_rfl
  · obtain ⟨w, rfl⟩ | ⟨r, rfl⟩ | ⟨b, -, -, rfl⟩ | ⟨-, -, hr⟩ | ⟨d, -, -, -, rfl⟩ | ⟨d, -, -, -, rfl⟩ := done
    · exact List.prefix_rfl
    · exact trace_prefix_giveBack r s
    · exact List.prefix_rfl
    · exact trace_prefix_recvBody hr
    · exact List.prefix_rfl
    · exact List.prefix_rfl

/-- No operation takes an entry away. -/
theorem trace_prefix_exec {i : Instr} {s t : State} (h : exec i s = .next t) : s.trace <+: t.trace := by
  cases hh : isHostOp i with
  | false => exact trace_prefix_exec_event hh h
  | true =>
    by_cases hn : i = .init
    · subst hn
      obtain ⟨-, -, rfl⟩ := exec_init_eq_next h
      exact List.prefix_rfl
    · exact trace_prefix_exec_hostOp hh hn h

/-- No step takes an entry away. -/
theorem trace_prefix_step {s t : State} (h : step s = .next t) : s.trace <+: t.trace := by
  obtain ⟨u, hu, hstep⟩ := step_eq_next h
  have hsu : u.trace = s.trace := (congrArg State.trace hu :)
  rw [← hsu]
  obtain ⟨i, hi⟩ | hd | rfl := hstep
  · exact trace_prefix_exec hi
  · obtain ⟨-, ⟨-, rfl⟩ | ⟨-, rfl⟩⟩ := delayReturn_eq_next hd <;> exact List.prefix_rfl
  · exact List.prefix_rfl

/-- Settles O60: the new trace begins with the old one, for every operation and so for every step. -/
theorem theTraceOnlyGrows : Obligations.TheTraceOnlyGrows := by
  refine ⟨fun i s t h => ?_, fun s t h => ?_⟩
  · obtain ⟨more, hm⟩ := trace_prefix_exec h
    exact ⟨more, hm.symm⟩
  · obtain ⟨more, hm⟩ := trace_prefix_step h
    exact ⟨more, hm.symm⟩

end Sys2Proof.Machine
end

section
/-! SUPPORT. Every step keeps the invariant of 10_state.md R49, the reset state meets it, and under it no step faults
(20_memory.md R61). -/

namespace Sys2Proof.Machine

/-! ## What R5 gives -/

theorem two_le_P_of_valid {c : Config} (h : c.valid = true) : 2 ≤ c.P :=
  let ⟨hP, _⟩ := (config_valid_iff c).1 h
  hP

theorem one_le_N_of_valid {c : Config} (h : c.valid = true) : 1 ≤ c.N :=
  let ⟨_, _, _, hN, _⟩ := (config_valid_iff c).1 h
  hN

theorem two_le_C_of_valid {c : Config} (h : c.valid = true) (hv : c.rxVariant = .ring) : 2 ≤ c.C :=
  let ⟨_, _, _, _, _, hC⟩ := (config_valid_iff c).1 h
  (hC hv).1

/-- An offset modulo the period is a compare value of R49 item 5. -/
theorem mod_P_lt {c : Config} (h : c.valid = true) (n : Nat) : n % c.P < c.P :=
  Nat.mod_lt n (Nat.lt_of_lt_of_le Nat.two_pos (two_le_P_of_valid h))

/-- Half a bit is `N div 2` whole periods, so the edge's countdown is in range (R162). -/
theorem edgeCountdown_le {c : Config} (h : c.valid = true) : edgeCountdown c ≤ c.N := by
  have hP := two_le_P_of_valid h
  have hN := one_le_N_of_valid h
  have hhalf : halfBit c / c.P = c.N / 2 := by
    rw [halfBit, bitTicks, Nat.div_div_eq_div_mul, Nat.mul_div_mul_right _ _ (by omega)]
  rw [edgeCountdown, hhalf]
  omega

/-- `rem` is less than a bit, so it holds fewer than `N` whole periods and the alarm's countdown is in range (R142). -/
theorem alarmCountdown_pos {c : Config} (h : c.valid = true) (d : Word32) : 1 ≤ alarmCountdown c d := by
  have hP := two_le_P_of_valid h
  have hN := one_le_N_of_valid h
  have hrem : remTicks c d < c.P * c.N := by
    rw [Nat.mul_comm]
    exact Nat.mod_lt _ (Nat.mul_pos (by omega) (by omega))
  exact Nat.sub_pos_of_lt (Nat.div_lt_of_lt_mul hrem)

theorem alarmCountdown_le (c : Config) (d : Word32) : alarmCountdown c d ≤ c.N := Nat.sub_le _ _

/-! ## The ring's indices (R70, R191) -/

theorem nextIndex_of_lt {c : Config} {i : Nat} (h : i < c.C) : nextIndex c i = if i + 1 = c.C then 0 else i + 1 := by
  rw [nextIndex]
  split
  · rw [‹i + 1 = c.C›, Nat.mod_self]
  · exact Nat.mod_eq_of_lt (by omega)

theorem nextIndex_lt {c : Config} {i : Nat} (h : i < c.C) : nextIndex c i < c.C := Nat.mod_lt _ (Nat.zero_lt_of_lt h)

theorem unreadCount_of_lt {c : Config} {head tail : Nat} (hh : head < c.C) (ht : tail < c.C) :
    unreadCount c head tail = if tail ≤ head then head - tail else head + c.C - tail := by
  rw [unreadCount, subMod, Nat.mod_eq_of_lt ht]
  split
  · have hwrap : head + (c.C - tail) = head - tail + c.C := by omega
    rw [hwrap, Nat.add_mod_right, Nat.mod_eq_of_lt (by omega)]
  · rw [Nat.mod_eq_of_lt (by omega)]
    omega

/-- Item 7 says no more than that indices and slots are in range: its clauses on the count follow by arithmetic. -/
theorem invRing_iff {s : State} (hv : s.cfg.valid = true) :
    InvRing s ↔ (s.cfg.rxVariant = .ring → s.head < s.cfg.C ∧ s.tail < s.cfg.C ∧ ∀ c ∈ s.buf, c.1 < s.cfg.C) := by
  constructor
  · intro h hr
    obtain ⟨hh, ht, -, -, -, hb⟩ := h hr
    exact ⟨hh, ht, hb⟩
  · intro h hr
    obtain ⟨hh, ht, hb⟩ := h hr
    have hC := two_le_C_of_valid hv hr
    rw [nextIndex_of_lt hh, unreadCount_of_lt hh ht]
    refine ⟨hh, ht, ?_, ?_, ?_, hb⟩
    · split <;> omega
    · split <;> omega
    · split <;> split <;> omega

/-! ## The invariant of a live block -/

/-- The invariant once `INIT` has run. -/
abbrev InvLive (s : State) : Prop := s.cfg.valid = true ∧ Memory.wf s.buf ∧ InvFields s

theorem InvLive.of_invariant {s : State} (h : Invariant s) (hi : s.initialized = true) : InvLive s :=
  ⟨h.1, h.2.1, h.2.2 hi⟩

theorem InvLive.invariant {s : State} (h : InvLive s) : Invariant s := ⟨h.1, h.2.1, fun _ => h.2.2⟩

/-! ## The two engines, at rest and at work (R49 items 1 to 4) -/

theorem invTx_of_idle {s : State} (hs : s.txState = .idle) (hready : s.sendReady = true) (hie : s.ieA = false)
    (hbits : s.txBits ≤ 8) : InvTx s := by simp [InvTx, hs, hready, hie, hbits]

theorem invTx_of_busy {s : State} (hs : s.txState ≠ .idle) (hready : s.sendReady = false) (hie : s.ieA = true)
    (hdata : s.txState = .sendData → 1 ≤ s.txBits) (hbits : s.txBits ≤ 8) : InvTx s := by
  simpa [InvTx, hs, hready, hie, hbits] using hdata

theorem sendReady_ieA_of_busy {s : State} (h : InvTx s) (hs : s.txState ≠ .idle) :
    s.sendReady = false ∧ s.ieA = true := by
  obtain ⟨hready, hie, -, -⟩ := h
  exact ⟨Bool.eq_false_iff.2 fun hr => hs (hready.1 hr), hie.2 hs⟩

theorem invRx_of_idle {s : State} (hs : s.rxState = .idle) (hedge : s.edgeIe = true) (hie : s.ieB = false)
    (hbits : s.rxBits ≤ 8) : InvRx s := by simp [InvRx, hs, hedge, hie, hbits]

theorem invRx_of_busy {s : State} (hs : s.rxState ≠ .idle) (hedge : s.edgeIe = false) (hie : s.ieB = true)
    (hdata : s.rxState = .sampleData → 1 ≤ s.rxBits) (hbits : s.rxBits ≤ 8) : InvRx s := by
  simpa [InvRx, hs, hedge, hie, hbits] using hdata

theorem edgeIe_ieB_of_busy {s : State} (h : InvRx s) (hs : s.rxState ≠ .idle) :
    s.edgeIe = false ∧ s.ieB = true := by
  obtain ⟨hidle, hie, -, -⟩ := h
  have hedge : s.edgeIe = false := Bool.eq_false_iff.2 fun he => hs (hidle.2 he)
  exact ⟨hedge, by simpa [hedge] using hie⟩

/-- R50's values meet R49. -/
theorem invLive_initState {s : State} (hv : s.cfg.valid = true) : InvLive (initState s) := by
  have hP : 0 < s.cfg.P := Nat.lt_of_lt_of_le Nat.two_pos (two_le_P_of_valid hv)
  have hN := one_le_N_of_valid hv
  have hring : InvRing (initState s) := (invRing_iff (s := initState s) hv).2 fun hr =>
    have hC : 0 < s.cfg.C := Nat.lt_of_lt_of_le Nat.two_pos (two_le_C_of_valid hv hr)
    ⟨hC, hC, fun _ hc => nomatch hc⟩
  have htx : InvTx (initState s) := invTx_of_idle rfl rfl rfl (Nat.zero_le 8)
  have hrx : InvRx (initState s) := invRx_of_idle rfl rfl rfl (Nat.zero_le 8)
  exact ⟨hv, Memory.wf_nil, htx, hrx, ⟨rfl, hP, hP, hP⟩, ⟨Nat.le_refl 1, hN, Nat.le_refl 1, hN⟩, hring, nofun⟩

/-! ## The channel-A handler -/

theorem isrCmpa_countdown {s : State} (h : 1 < s.txOs) : isrCmpa s = { s with txOs := s.txOs - 1 } := by
  rw [isrCmpa, if_pos h]

theorem isrCmpa_advance {s : State} (h : s.txOs ≤ 1) : isrCmpa s = txAdvance { s with txOs := s.cfg.N } := by
  rw [isrCmpa, if_neg (Nat.not_lt.2 h)]

@[simp] theorem txAdvance_txOs (s : State) : (txAdvance s).txOs = s.txOs := by
  cases hs : s.txState with
  | idle => simp only [txAdvance, hs]
  | sendStart | sendStop | finishing =>
    simp only [txAdvance, hs]
    rfl
  | sendData =>
    simp only [txAdvance, hs, txSendData]
    split <;> rfl
  | timedDelay =>
    simp only [txAdvance, hs, txTimedDelay]
    split <;> rfl

theorem invTx_txAdvance {s : State} (h : InvTx s) : InvTx (txAdvance s) := by
  by_cases hidle : s.txState = .idle
  · simpa only [txAdvance, hidle] using h
  · obtain ⟨hready, hie⟩ := sendReady_ieA_of_busy h hidle
    obtain ⟨-, -, -, hbits⟩ := h
    cases hs : s.txState with
    | idle => exact absurd hs hidle
    | sendStart =>
      simp only [txAdvance, hs]
      exact invTx_of_busy nofun hready hie (fun _ => Nat.le_add_left 1 7) (Nat.le_refl 8)
    | sendData =>
      have hleft : s.txBits - 1 ≤ 8 := Nat.le_trans (Nat.sub_le _ _) hbits
      simp only [txAdvance, hs, txSendData]
      split
      · exact invTx_of_busy nofun hready hie nofun hleft
      · rename_i hmore
        exact invTx_of_busy nofun hready hie (fun _ => Nat.pos_of_ne_zero hmore) hleft
    | sendStop =>
      simp only [txAdvance, hs]
      exact invTx_of_busy nofun hready hie nofun hbits
    | finishing =>
      simp only [txAdvance, hs]
      exact invTx_of_idle rfl rfl rfl hbits
    | timedDelay =>
      simp only [txAdvance, hs, txTimedDelay]
      split
      · exact invTx_of_idle rfl rfl rfl hbits
      · exact invTx_of_busy nofun hready hie nofun hbits

theorem invTx_isrCmpa {s : State} (h : InvTx s) : InvTx (isrCmpa s) := by
  by_cases hos : 1 < s.txOs
  · rw [isrCmpa_countdown hos]
    exact h
  · rw [isrCmpa_advance (Nat.not_lt.1 hos)]
    exact invTx_txAdvance (s := { s with txOs := s.cfg.N }) h

theorem isrCmpa_txOs_range {s : State} (hN : 1 ≤ s.cfg.N) (h : s.txOs ≤ s.cfg.N) :
    1 ≤ (isrCmpa s).txOs ∧ (isrCmpa s).txOs ≤ s.cfg.N := by
  by_cases hos : 1 < s.txOs
  · rw [isrCmpa_countdown hos]
    exact ⟨by simp only; omega, by simp only; omega⟩
  · rw [isrCmpa_advance (Nat.not_lt.1 hos), txAdvance_txOs]
    exact ⟨hN, Nat.le_refl _⟩

theorem invLive_isrCmpa {s : State} (h : InvLive s) : InvLive (isrCmpa s) := by
  obtain ⟨hv, hw, htx, hrx, hclk, ⟨-, hosN, hros⟩, hring, hedge⟩ := h
  have htx' := invTx_isrCmpa htx
  obtain ⟨hos1', hosN'⟩ := isrCmpa_txOs_range (one_le_N_of_valid hv) hosN
  rw [isrCmpa_frame] at htx' ⊢
  exact ⟨hv, hw, htx', hrx, hclk, ⟨hos1', hosN', hros⟩, hring, hedge⟩

/-! ## The edge sensor's handler -/

/-- An event that has just latched an edge may break item 8; the handler takes the request (R162) and mends it. -/
theorem invLive_isrEdge {s : State} (h : InvLive { s with edgeIf := false }) : InvLive (isrEdge s) := by
  obtain ⟨hv, hw, htx, ⟨-, -, -, hbits⟩, ⟨htop, hcnt, hA, -⟩, ⟨hos1, hosN, -, -⟩, hring, -⟩ := id h
  by_cases hpin : s.rxPin = 0#1
  · simp only [isrEdge, hpin, if_true, armChannel, enableChannel]
    have hclk : InvClock { s with cmpB := (s.cnt + edgeOffset s.cfg) % s.cfg.P } := ⟨htop, hcnt, hA, mod_P_lt hv _⟩
    have hos : InvCountdown { s with rxOs := edgeCountdown s.cfg } :=
      ⟨hos1, hosN, Nat.succ_le_succ (Nat.zero_le _), edgeCountdown_le hv⟩
    have hrx : InvRx { s with ieB := true, edgeIe := false, rxState := .armedForStart } :=
      invRx_of_busy nofun rfl rfl nofun hbits
    exact ⟨hv, hw, htx, hrx, hclk, hos, hring, nofun⟩
  · simp only [isrEdge, hpin, if_false]
    exact h

theorem invEdge_of_not_delivered {s : State} (h : edgeDelivered s = false) : InvEdge s := by
  intro hf
  cases he : s.edgeIe with
  | false => exact .inl rfl
  | true => exact .inr (by simpa [edgeDelivered, delivered, hf, he] using h)

/-- A latched edge is served, or its request is masked (R161, R212). -/
theorem invLive_serveEdge {s : State} (h : InvLive { s with edgeIf := false }) :
    InvLive (if edgeDelivered s then isrEdge s else s) := by
  cases hd : edgeDelivered s with
  | true => exact invLive_isrEdge h
  | false =>
    obtain ⟨hv, hw, htx, hrx, hclk, hos, hring, -⟩ := h
    exact ⟨hv, hw, htx, hrx, hclk, hos, hring, invEdge_of_not_delivered hd⟩

/-- Inputs are no part of the invariant but for item 8. -/
theorem InvLive.setInputs {s : State} (h : InvLive s) (l : Bit) (g : Bool) :
    InvLive { s with rxPin := l, gie := g, edgeIf := false } := by
  obtain ⟨hv, hw, htx, hrx, hclk, hos, hring, -⟩ := h
  exact ⟨hv, hw, htx, hrx, hclk, hos, hring, nofun⟩

/-! ## Delivering a byte, and the channel-B handler -/

theorem invLive_deliver {b : Byte} {s t : State} (h : InvLive s) (hd : deliver b s = .next t) : InvLive t := by
  obtain ⟨hv, hw, htx, hrx, hclk, hos, hring, hedge⟩ := id h
  obtain ⟨-, rfl⟩ | ⟨-, -, rfl⟩ | ⟨hr, -, hh, rfl⟩ := deliver_eq_next hd
  · simp only [deliverSingle]
    split <;> exact h
  · exact h
  · obtain ⟨-, ht, hslots⟩ := (invRing_iff hv).1 hring hr
    have hslots' : ∀ c ∈ Memory.write s.buf s.head b, c.1 < s.cfg.C := fun c hc => by
      rcases Memory.mem_write hc with hc | rfl
      · exact hslots c hc
      · exact hh
    have hring' : InvRing { s with buf := Memory.write s.buf s.head b, head := nextIndex s.cfg s.head } :=
      (invRing_iff (by exact hv)).2 fun _ => ⟨nextIndex_lt hh, ht, hslots'⟩
    exact ⟨hv, Memory.wf_write hw _ _, htx, hrx, hclk, hos, hring', hedge⟩

theorem invLive_recordFramingError {s : State} (h : InvLive s) : InvLive (recordFramingError s) := by
  rw [recordFramingError_frame]
  exact h

theorem invLive_rxOs {s : State} (h : InvLive s) {n : Nat} (h1 : 1 ≤ n) (hN : n ≤ s.cfg.N) :
    InvLive { s with rxOs := n } := by
  obtain ⟨hv, hw, htx, hrx, hclk, ⟨hos1, hosN, -, -⟩, hring, hedge⟩ := h
  exact ⟨hv, hw, htx, hrx, hclk, ⟨hos1, hosN, h1, hN⟩, hring, hedge⟩

theorem invLive_rxArmedForStart {s : State} (h : InvLive s) (hs : s.rxState = .armedForStart) :
    InvLive (rxArmedForStart s) := by
  obtain ⟨hv, hw, htx, hrx, hclk, hos, hring, hedge⟩ := h
  obtain ⟨hie, hieB⟩ := edgeIe_ieB_of_busy hrx (by simp [hs])
  have hrx' : InvRx (rxArmedForStart s) := invRx_of_busy nofun hie hieB (fun _ => Nat.le_add_left 1 7) (Nat.le_refl 8)
  exact ⟨hv, hw, htx, hrx', hclk, hos, hring, hedge⟩

theorem invLive_rxSampleData {s : State} (h : InvLive s) (hs : s.rxState = .sampleData) (smp : Bit) :
    InvLive (rxSampleData smp s) := by
  obtain ⟨hv, hw, htx, hrx, hclk, hos, hring, hedge⟩ := h
  have hbusy : s.rxState ≠ .idle := by simp [hs]
  obtain ⟨hie, hieB⟩ := edgeIe_ieB_of_busy hrx hbusy
  obtain ⟨-, -, -, hbits⟩ := hrx
  have hleft : s.rxBits - 1 ≤ 8 := Nat.le_trans (Nat.sub_le _ _) hbits
  simp only [rxSampleData]
  split
  · exact ⟨hv, hw, htx, invRx_of_busy nofun hie hieB nofun hleft, hclk, hos, hring, hedge⟩
  · rename_i hmore
    exact ⟨hv, hw, htx, invRx_of_busy hbusy hie hieB (fun _ => Nat.pos_of_ne_zero hmore) hleft, hclk, hos, hring, hedge⟩

theorem invLive_rxRelease {s : State} (h : InvLive s) : InvLive (rxRelease s) := by
  obtain ⟨hv, hw, htx, ⟨-, -, -, hbits⟩, hclk, hos, hring, -⟩ := h
  have hrx : InvRx (rxRelease s) := invRx_of_idle rfl rfl rfl hbits
  exact ⟨hv, hw, htx, hrx, hclk, hos, hring, nofun⟩

theorem invLive_isrCmpb {s t : State} (h : InvLive s) (hb : isrCmpb s = .next t) : InvLive t := by
  obtain ⟨hv, -, -, -, -, ⟨-, -, -, hosN⟩, -, -⟩ := id h
  have hload : InvLive { s with rxOs := s.cfg.N } := invLive_rxOs h (one_le_N_of_valid hv) (Nat.le_refl _)
  obtain ⟨hos, rfl⟩ | ⟨-, ⟨-, rfl⟩ | ⟨hs, rfl⟩ | ⟨hs, rfl⟩ | ⟨-, u, rfl, ⟨-, hd⟩ | ⟨-, rfl⟩⟩⟩ := isrCmpb_eq_next hb
  · exact invLive_rxOs h (by omega) (by omega)
  · exact hload
  · exact invLive_rxArmedForStart hload hs
  · exact invLive_rxSampleData hload hs _
  · exact invLive_rxRelease (invLive_deliver hload hd)
  · exact invLive_rxRelease (invLive_recordFramingError hload)

/-! ## `TICK` and the bodies of the host operations -/

theorem invLive_countUp {s : State} (h : InvLive s) : InvLive (countUp s) := by
  obtain ⟨hv, hw, htx, hrx, ⟨htop, -, hcmp⟩, hos, hring, hedge⟩ := h
  have hcnt : (countUp s).cnt < s.cfg.P := by
    simp only [countUp, htop]
    exact mod_P_lt hv _
  exact ⟨hv, hw, htx, hrx, ⟨htop, hcnt, hcmp⟩, hos, hring, hedge⟩

theorem invLive_tickBody {s t : State} (h : InvLive s) (ht : tickBody s = .next t) : InvLive t := by
  obtain ⟨u, hu, ht⟩ := tickBody_eq_next ht
  have hliveU : InvLive u := by
    obtain ⟨-, rfl⟩ | ⟨-, rfl⟩ := hu
    · exact invLive_countUp h
    · exact invLive_isrCmpa (invLive_countUp h)
  obtain ⟨-, rfl⟩ | ⟨-, hb⟩ := ht
  · exact hliveU
  · exact invLive_isrCmpb hliveU hb

theorem invLive_sendBody {s : State} (h : InvLive s) (b : Byte) : InvLive (sendBody b s) := by
  obtain ⟨hv, hw, ⟨-, -, -, hbits⟩, hrx, ⟨htop, hcnt, -, hB⟩, ⟨-, -, hros⟩, hring, hedge⟩ := h
  have htx : InvTx (sendBody b s) := invTx_of_busy nofun rfl rfl nofun hbits
  exact ⟨hv, hw, htx, hrx, ⟨htop, hcnt, mod_P_lt hv _, hB⟩, ⟨Nat.le_refl 1, one_le_N_of_valid hv, hros⟩, hring, hedge⟩

theorem invLive_alarmBody {s : State} (h : InvLive s) (d : Word32) : InvLive (alarmBody d s) := by
  obtain ⟨hv, hw, ⟨-, -, -, hbits⟩, hrx, ⟨htop, hcnt, -, hB⟩, ⟨-, -, hros⟩, hring, hedge⟩ := h
  have htx : InvTx (alarmBody d s) := invTx_of_busy nofun rfl rfl nofun hbits
  exact ⟨hv, hw, htx, hrx, ⟨htop, hcnt, mod_P_lt hv _, hB⟩,
    ⟨alarmCountdown_pos hv d, alarmCountdown_le s.cfg d, hros⟩, hring, hedge⟩

theorem invLive_recvBody {s t : State} (h : InvLive s) (ht : recvBody s = .next t) : InvLive t := by
  obtain ⟨hv, hw, htx, hrx, hclk, hos, hring, hedge⟩ := id h
  obtain ⟨-, rfl⟩ | ⟨hr, htail, rfl⟩ := recvBody_eq_next ht
  · exact h
  · obtain ⟨hh, -, hslots⟩ := (invRing_iff hv).1 hring hr
    have hring' : InvRing { s with tail := nextIndex s.cfg s.tail } :=
      (invRing_iff (by exact hv)).2 fun _ => ⟨hh, nextIndex_lt htail, hslots⟩
    exact ⟨hv, hw, htx, hrx, hclk, hos, hring', hedge⟩

/-! ## Every operation and every step -/

theorem invariant_exec_event {i : Instr} {s t : State} (hh : isHostOp i = false) (h : Invariant s)
    (he : exec i s = .next t) : Invariant t := by
  obtain ⟨-, hi, early⟩ | ⟨⟨-, hi⟩, live⟩ := exec_event_eq_next hh he
  · have hearly : ¬s.initialized = true := by simp [hi]
    obtain ⟨hv, hw, -⟩ := h
    obtain rfl | ⟨l, -, rfl⟩ | ⟨v, -, rfl⟩ := early <;> exact ⟨hv, hw, fun hi' => absurd hi' hearly⟩
  · have hl := InvLive.of_invariant h hi
    refine InvLive.invariant ?_
    obtain ⟨-, rfl⟩ | ⟨-, rfl⟩ | ⟨-, hb⟩ | ⟨-, ht⟩ | ⟨l, -, rfl⟩ | ⟨v, -, rfl⟩ := live
    · exact invLive_isrEdge (hl.setInputs s.rxPin s.gie)
    · exact invLive_isrCmpa hl
    · exact invLive_isrCmpb hl hb
    · exact invLive_tickBody hl ht
    · exact invLive_serveEdge (hl.setInputs l s.gie)
    · exact invLive_serveEdge (hl.setInputs s.rxPin (decide (v = 1#1)))

theorem invariant_exec_hostOp {i : Instr} {s t : State} (hh : isHostOp i = true) (hn : i ≠ .init) (h : Invariant s)
    (he : exec i s = .next t) : Invariant t := by
  obtain ⟨⟨-, hi⟩, ⟨-, rfl⟩ | ⟨-, done⟩⟩ := exec_hostOp_eq_next hh hn he
  · exact h
  · have hl := InvLive.of_invariant h hi
    obtain ⟨w, rfl⟩ | ⟨r, rfl⟩ | ⟨b, -, -, rfl⟩ | ⟨-, -, hr⟩ | ⟨d, -, -, -, rfl⟩ | ⟨d, -, -, -, rfl⟩ := done
    · exact h
    · exact h
    · exact (invLive_sendBody hl b).invariant
    · exact (invLive_recvBody hl hr).invariant
    · exact (invLive_alarmBody hl d).invariant
    · exact (invLive_alarmBody hl d).invariant

theorem invariant_exec {i : Instr} {s t : State} (h : Invariant s) (he : exec i s = .next t) : Invariant t := by
  cases hh : isHostOp i with
  | false => exact invariant_exec_event hh h he
  | true =>
    by_cases hn : i = .init
    · subst hn
      obtain ⟨hv, -, rfl⟩ := exec_init_eq_next he
      exact (invLive_initState hv).invariant
    · exact invariant_exec_hostOp hh hn h he

/-- A move is made from a state that differs from `s` in the inputs still to come and the hold only, which R49 does not
mention. -/
theorem invariant_of_nextMove {s u : State} (h : Invariant s)
    (hu : u = { s with hold := u.hold, program := u.program, envQueue := u.envQueue, vector := u.vector, turns := u.turns }) :
    Invariant u := by
  rw [hu]
  exact h

theorem invariant_step {s t : State} (h : Invariant s) (hstep : step s = .next t) : Invariant t := by
  obtain ⟨u, hu, hmove⟩ := step_eq_next hstep
  have hinv : Invariant u := invariant_of_nextMove h hu
  obtain ⟨i, hi⟩ | hd | rfl := hmove
  · exact invariant_exec hinv hi
  · obtain ⟨-, ⟨-, rfl⟩ | ⟨-, rfl⟩⟩ := delayReturn_eq_next hd <;> exact hinv
  · exact hinv

/-! ## No fault -/

@[simp] theorem safeResult_next (s : State) : SafeResult (.next s) := nofun
@[simp] theorem safeResult_refused (q : Refusal) : SafeResult (.refused q) := nofun

theorem safeResult_thenDo_next {r : Result} (h : SafeResult r) (k : State → State) :
    SafeResult (thenDo r fun s => .next (k s)) := by
  cases r with
  | next | refused => exact nofun
  | fault f => exact absurd rfl (h f)

theorem safeResult_holdUntil {s : State} {k : State → Result} (h : SafeResult (k s)) (c : Bool) (w : Hold) :
    SafeResult (holdUntil c w s k) := by
  cases c with
  | true => exact h
  | false => exact safeResult_next _

theorem safeResult_periodsOrRefuse {s : State} {k : State → Result} (h : SafeResult (k s)) (d : Word32) :
    SafeResult (periodsOrRefuse d s k) := by
  rw [periodsOrRefuse]
  split
  · exact h
  · exact safeResult_refused _

/-- `Deliver` writes at `head` only. -/
theorem safeResult_deliver {s : State} (h : s.cfg.rxVariant = .ring → s.head < s.cfg.C) (b : Byte) :
    SafeResult (deliver b s) := by
  cases hv : s.cfg.rxVariant with
  | single => simp [deliver, hv]
  | ring =>
    simp only [deliver, hv, deliverRing, memWrite_lt (h hv), thenDo_next]
    split <;> exact safeResult_next _

theorem safeResult_isrCmpb {s : State} (h : s.cfg.rxVariant = .ring → s.head < s.cfg.C) : SafeResult (isrCmpb s) := by
  rw [isrCmpb]
  split
  · exact safeResult_next _
  · cases hs : s.rxState with
    | idle | armedForStart | sampleData => exact safeResult_next _
    | checkStop =>
      simp only [rxAdvance, rxCheckStop]
      refine safeResult_thenDo_next ?_ rxRelease
      split
      · exact safeResult_deliver (by exact h) _
      · exact safeResult_next _

/-- Channel A's handler, which runs first, moves no ring index. -/
theorem safeResult_tickBody {s : State} (h : s.cfg.rxVariant = .ring → s.head < s.cfg.C) : SafeResult (tickBody s) := by
  have hA : SafeResult (isrCmpb (isrCmpa (countUp s))) := safeResult_isrCmpb (by simpa using h)
  have hB : SafeResult (isrCmpb (countUp s)) := safeResult_isrCmpb h
  unfold tickBody
  cases fires .A s <;> cases fires .B s <;> simp [hA, hB]

/-- `RECV` reads at `tail` only. -/
theorem safeResult_recvBody {s : State} (h : s.cfg.rxVariant = .ring → s.tail < s.cfg.C) : SafeResult (recvBody s) := by
  cases hv : s.cfg.rxVariant with
  | single => simp [recvBody, hv]
  | ring => simp [recvBody, hv, memRead_lt (h hv)]

theorem InvLive.head_lt {s : State} (h : InvLive s) (hr : s.cfg.rxVariant = .ring) : s.head < s.cfg.C :=
  let ⟨_, _, _, _, _, _, hring, _⟩ := h
  (hring hr).1

theorem InvLive.tail_lt {s : State} (h : InvLive s) (hr : s.cfg.rxVariant = .ring) : s.tail < s.cfg.C :=
  let ⟨_, _, _, _, _, _, hring, _⟩ := h
  (hring hr).2.1

theorem safeResult_exec_event {i : Instr} {s : State} (hh : isHostOp i = false) (h : Invariant s) :
    SafeResult (exec i s) := by
  cases hi : s.initialized with
  | false =>
    obtain ⟨early, k, hk⟩ := exec_eq_blockStep hh
    rw [hk, blockStep_early h.1 hi]
    exact safeResult_next _
  | true =>
    have hl : Live s := ⟨h.1, hi⟩
    have hhead := (InvLive.of_invariant h hi).head_lt
    cases i with
    | init | avail | txrdy | send | recv | alarm | delay => cases hh
    | isrEdge => simp [exec_isrEdge hl]
    | isrCmpa => simp [exec_isrCmpa hl]
    | isrCmpb =>
      rw [exec_isrCmpb hl]
      exact safeResult_isrCmpb hhead
    | tick =>
      rw [exec_tick hl]
      exact safeResult_tickBody hhead
    | rxline l => simp [exec_rxline hl, serveEdge_eq]
    | gie v => simp [exec_gie hl, serveEdge_eq]

theorem safeResult_exec_ready {i : Instr} {s : State} (hr : Ready s) (h : InvLive s) (hh : isHostOp i = true)
    (hn : i ≠ .init) : SafeResult (exec i s) := by
  cases i with
  | init => exact absurd rfl hn
  | isrEdge | isrCmpa | isrCmpb | tick | rxline | gie => cases hh
  | avail => simp [exec_avail hr]
  | txrdy => simp [exec_txrdy hr]
  | send b =>
    rw [exec_send hr]
    exact safeResult_holdUntil (by simp) _ _
  | recv =>
    rw [exec_recv hr]
    exact safeResult_holdUntil (safeResult_recvBody h.tail_lt) _ _
  | alarm d =>
    rw [exec_alarm hr]
    exact safeResult_periodsOrRefuse (safeResult_holdUntil (by simp) _ _) d
  | delay d =>
    rw [exec_delay hr]
    exact safeResult_periodsOrRefuse (safeResult_holdUntil (by simp) _ _) d

theorem safeResult_exec_init (s : State) : SafeResult (exec .init s) := by
  rw [exec_init, onBlock]
  split
  · split <;> simp
  · simp

theorem safeResult_exec {s : State} (h : Invariant s) (i : Instr) : SafeResult (exec i s) := by
  by_cases hn : i = .init
  · subst hn
    exact safeResult_exec_init s
  · cases hh : isHostOp i with
    | false => exact safeResult_exec_event hh h
    | true =>
      cases hi : s.initialized with
      | false =>
        rw [exec_hostOp_early hh hn h.1 hi]
        exact safeResult_refused _
      | true =>
        cases hold : s.hold with
        | some w =>
          rw [exec_hostOp_held ⟨h.1, hi⟩ hold hh hn]
          exact safeResult_next _
        | none => exact safeResult_exec_ready ⟨⟨h.1, hi⟩, hold⟩ (InvLive.of_invariant h hi) hh hn

theorem safeResult_delayReturn (s : State) : SafeResult (delayReturn s) := by
  rw [delayReturn, afterInit, onBlock]
  split
  · split
    · exact safeResult_holdUntil (by simp) _ _
    · simp
  · simp

theorem safeResult_resumeHold {s : State} (h : Invariant s) (w : Hold) : SafeResult (resumeHold w s) := by
  cases w with
  | send b => exact safeResult_exec h (.send b)
  | recv => exact safeResult_exec h .recv
  | alarm d => exact safeResult_exec h (.alarm d)
  | delay d => exact safeResult_exec h (.delay d)
  | delayReturn => exact safeResult_delayReturn s

theorem safeResult_step {s : State} (h : Invariant s) : SafeResult (step s) := by
  unfold step
  cases hm : nextMove s with
  | issue i u => exact safeResult_exec (invariant_of_nextMove h (nextMove_state (.inl ⟨i, hm⟩))) i
  | resume w u => exact safeResult_resumeHold (invariant_of_nextMove h (nextMove_state (.inr (.inl ⟨w, hm⟩)))) w
  | rest u =>
    have hu : Invariant u := invariant_of_nextMove h (nextMove_state (.inr (.inr hm)))
    rw [perform, onBlock_valid hu.1]
    exact safeResult_next u
  | reject q => exact safeResult_refused q

/-! ## The invariant: the obligations -/

/-- The state after reset is what `INIT` leaves (R250). -/
theorem initState_reset : initState State.reset = State.reset := rfl

theorem config_reference_valid : Config.reference.valid = true := by decide

/-- Settles O50: each handler and each body keeps the invariant of a live block, and the inversion lemmas say that an
operation does nothing else. -/
theorem everyStepKeepsTheInvariant : Obligations.EveryStepKeepsTheInvariant :=
  ⟨fun _ _ => invariant_step, fun _ _ _ => invariant_exec⟩

/-- Settles O51: the ring is read at `tail` and written at `head` only, and item 7 of R49 keeps both in range. -/
theorem noStepFaultsUnderTheInvariant : Obligations.NoStepFaultsUnderTheInvariant :=
  fun _ h => ⟨safeResult_step h, safeResult_exec h⟩

/-- Settles O16: the state after reset is written out, and an empty memory reads 0 everywhere. -/
theorem resetValuesOfRuleR50 : Obligations.ResetValuesOfRuleR50 := by
  simp [Obligations.ResetValuesOfRuleR50, State.reset, Config.reference, Memory.read_nil, blankByte]

/-- Settles O49: the state after reset is what `INIT` leaves, which meets R49 for every valid choice of parameters. -/
theorem resetMeetsTheInvariant : Obligations.ResetMeetsTheInvariant := by
  have hlive : InvLive State.reset := initState_reset ▸ invLive_initState config_reference_valid
  exact ⟨hlive.invariant, rfl⟩

end Sys2Proof.Machine
end

section
/-! SUPPORT. What each side of the block touches, and that operations of the two sides commute (20_memory.md R73). -/

namespace Sys2Proof.Machine

/-! ## The fields of each side -/

/-- `s` with the fields that the transmit side's operations write, the foreground's hold and program among them, taken from
`x`. -/
def setTransmit (x s : State) : State :=
  { s with
    cmpA := x.cmpA, ieA := x.ieA, txPin := x.txPin, txState := x.txState, txBits := x.txBits, txShift := x.txShift
    delayCounter := x.delayCounter, txOs := x.txOs, sendReady := x.sendReady, hold := x.hold, program := x.program }

/-- `s` with the fields that the receive side's events write, the trace among them, taken from `y`. -/
def setReceive (y s : State) : State :=
  { s with
    cmpB := y.cmpB, ieB := y.ieB, edgeIe := y.edgeIe, edgeIf := y.edgeIf, rxPin := y.rxPin, rxState := y.rxState
    rxBits := y.rxBits, rxAcc := y.rxAcc, rxOs := y.rxOs, available := y.available, recvByte := y.recvByte
    buf := y.buf, head := y.head, trace := y.trace }

theorem setReceive_setTransmit (x y s : State) :
    setReceive y (setTransmit x s) = setTransmit x (setReceive y s) := rfl

/-- Writing transmit fields leaves the receiver, the receive buffer, the clock and the platform alone. -/
theorem setTransmit_same (x s : State) : SameReceiver s (setTransmit x s) ∧ SameQueue s (setTransmit x s) ∧
    SameClock s (setTransmit x s) ∧ SamePlatform s (setTransmit x s) := by
  simp [SameReceiver, SameQueue, SameMemory, SameClock, SamePlatform, setTransmit]

/-- Writing receive fields leaves the transmitter, the clock and the platform alone. -/
theorem setReceive_same (y s : State) :
    SameTransmit s (setReceive y s) ∧ SameClock s (setReceive y s) ∧ SamePlatform s (setReceive y s) := by
  simp [SameTransmit, SameClock, SamePlatform, setReceive]

@[simp] theorem setTransmit_cfg (x s : State) : (setTransmit x s).cfg = s.cfg := rfl
@[simp] theorem setTransmit_rxState (x s : State) : (setTransmit x s).rxState = s.rxState := rfl

theorem setReceive_self (s : State) : setReceive s s = s := rfl

/-! ## What each operation writes -/

/-- The channel-A handler writes transmit fields only. -/
theorem exec_isrCmpa_frame {s t : State} (h : exec .isrCmpa s = .next t) : t = setTransmit t s := by
  change execIsrCmpa s = _ at h
  obtain ⟨-, -, rfl⟩ | ⟨-, h⟩ := blockStep_eq_next h
  · rfl
  · cases h
    rw [isrCmpa_frame]
    rfl

/-- A host operation but `INIT` and `RECV` writes transmit fields, never the line, and the trace. -/
theorem exec_hostOp_frame {i : Instr} {s t : State} (hh : isHostOp i = true) (hn : i ≠ .init) (hr : i ≠ .recv)
    (h : exec i s = .next t) : t = setTransmit t { s with trace := t.trace } ∧ t.txPin = s.txPin := by
  obtain ⟨-, ⟨-, rfl⟩ | ⟨-, done⟩⟩ := exec_hostOp_eq_next hh hn h
  · exact ⟨rfl, rfl⟩
  · obtain ⟨w, rfl⟩ | ⟨r, rfl⟩ | ⟨b, -, -, rfl⟩ | ⟨hi, -⟩ | ⟨d, -, -, -, rfl⟩ | ⟨d, -, -, -, rfl⟩ := done
    · exact ⟨rfl, rfl⟩
    · exact ⟨rfl, rfl⟩
    · exact ⟨rfl, rfl⟩
    · exact absurd hi hr
    · exact ⟨rfl, rfl⟩
    · exact ⟨rfl, rfl⟩

/-- A delivered edge request or none: receive fields only, and no slot of the ring. -/
theorem serveEdge_frame {s t : State} (h : serveEdge s = .next t) : t = setReceive t s ∧ t.buf = s.buf := by
  rw [serveEdge_eq] at h
  cases h
  split
  · refine ⟨?_, isrEdge_buf s⟩
    rw [isrEdge_frame]
    rfl
  · exact ⟨rfl, rfl⟩

/-- A handler of the receive side and `RXLINE` write receive fields only, and only `ISR_CMPB` a slot of the ring. -/
theorem exec_receiveEvent_frame {i : Instr} {s t : State} (hi : i = .isrEdge ∨ i = .isrCmpb ∨ ∃ l, i = .rxline l)
    (h : exec i s = .next t) : t = setReceive t s ∧ (i ≠ .isrCmpb → t.buf = s.buf) := by
  obtain rfl | rfl | ⟨l, rfl⟩ := hi
  · change execIsrEdge s = _ at h
    obtain ⟨-, -, rfl⟩ | ⟨-, h⟩ := blockStep_eq_next h
    · exact ⟨rfl, fun _ => rfl⟩
    · cases h
      refine ⟨?_, fun _ => isrEdge_buf s⟩
      rw [isrEdge_frame]
      rfl
  · change execIsrCmpb s = _ at h
    refine ⟨?_, fun hne => absurd rfl hne⟩
    obtain ⟨-, -, rfl⟩ | ⟨-, h⟩ := blockStep_eq_next h
    · rfl
    · rw [thenDo_return] at h
      rw [isrCmpb_frame h]
      rfl
  · change execRxline l s = _ at h
    obtain ⟨-, -, rfl⟩ | ⟨-, h⟩ := blockStep_eq_next h
    · exact ⟨rfl, fun _ => rfl⟩
    · obtain ⟨ht, hbuf⟩ := serveEdge_frame h
      exact ⟨by rw [ht]; rfl, fun _ => hbuf⟩

/-- `RECV` and `AVAIL` write the consumer side of the receive buffer, the foreground's hold and program, and the trace. -/
theorem exec_receiveHostOp_frame {i : Instr} {s t : State} (hi : i = .recv ∨ i = .avail) (h : exec i s = .next t) :
    t = { s with
      available := t.available, tail := t.tail, hold := t.hold, program := t.program, trace := t.trace } := by
  have hh : isHostOp i = true := by obtain rfl | rfl := hi <;> rfl
  have hn : i ≠ .init := by obtain rfl | rfl := hi <;> nofun
  obtain ⟨-, ⟨-, rfl⟩ | ⟨-, done⟩⟩ := exec_hostOp_eq_next hh hn h
  · rfl
  · obtain ⟨w, rfl⟩ | ⟨r, rfl⟩ | ⟨b, rfl, -⟩ | ⟨-, -, hr⟩ | ⟨d, rfl, -⟩ | ⟨d, rfl, -⟩ := done
    · rfl
    · rfl
    · simp at hi
    · obtain ⟨-, rfl⟩ | ⟨-, -, rfl⟩ := recvBody_eq_next hr <;> rfl
    · simp at hi
    · simp at hi

/-! ## Operations that ignore some fields -/

/-- `k` neither reads nor writes what `f` overwrites: it answers from `f s` as it does from `s`, up to `f`. -/
def Ignores (f : State → State) (k : State → Result) : Prop := ∀ s, k (f s) = thenDo (k s) fun t => .next (f t)

section
variable {f : State → State}

theorem ignores_next {g : State → State} (h : ∀ s, g (f s) = f (g s)) : Ignores f fun s => .next (g s) :=
  fun s => congrArg Host.Outcome.next (h s)

theorem ignores_thenDo {r k : State → Result} (hr : Ignores f r) (hk : Ignores f k) :
    Ignores f fun s => thenDo (r s) k := fun s => by
  have hk' : (fun t => k (f t)) = fun t => thenDo (k t) fun u => .next (f u) := funext hk
  change thenDo (r (f s)) k = _
  rw [hr, thenDo_assoc, thenDo_assoc, ← hk']
  rfl

theorem ignores_ite {c : State → Prop} [DecidablePred c] {k l : State → Result} (hc : ∀ s, c (f s) ↔ c s)
    (hk : Ignores f k) (hl : Ignores f l) : Ignores f fun s => if c s then k s else l s := fun s => by
  by_cases h : c s
  · simpa only [hc, if_pos h] using hk s
  · simpa only [hc, if_neg h] using hl s

/-- The guard of handlers and environment steps reads the parameters and `initialized`. -/
theorem ignores_blockStep {early : State → State} {k : State → Result} (hcfg : ∀ s, (f s).cfg = s.cfg)
    (hinit : ∀ s, (f s).initialized = s.initialized) (hearly : ∀ s, early (f s) = f (early s)) (hk : Ignores f k) :
    Ignores f fun s => blockStep early s k :=
  ignores_ite (fun s => by rw [hcfg])
    (ignores_ite (fun s => by rw [hinit]) hk (ignores_next hearly)) fun _ => rfl

end

/-- What an operation ignores it leaves alone. -/
theorem Ignores.setReceive_eq {k : State → Result} {s u : State} (h : Ignores (setReceive s) k) (hk : k s = .next u) :
    u = setReceive s u := by
  have hs := h s
  rw [setReceive_self, hk] at hs
  exact Host.Outcome.next.inj hs

/-! ## The transmit side ignores the receive fields -/

section
variable (y : State)

theorem isrCmpa_setReceive (s : State) : isrCmpa (setReceive y s) = setReceive y (isrCmpa s) := by
  by_cases hos : 1 < s.txOs
  · rw [isrCmpa_countdown hos, isrCmpa_countdown (s := setReceive y s) hos]
    rfl
  · rw [isrCmpa_advance (Nat.not_lt.1 hos), isrCmpa_advance (s := setReceive y s) (Nat.not_lt.1 hos)]
    cases hs : s.txState with
    | idle | sendStart | sendStop | finishing =>
      simp [txAdvance, setReceive, hs, txSendStart, txSendStop, txFinishing, disableChannel]
    | sendData => by_cases hb : s.txBits - 1 = 0 <;> simp [txAdvance, setReceive, hs, txSendData, hb]
    | timedDelay =>
      by_cases hd : delayCountdown s.delayCounter = 0#32 <;>
        simp [txAdvance, setReceive, hs, txTimedDelay, hd, disableChannel]

theorem sendBody_setReceive (b : Byte) (s : State) : sendBody b (setReceive y s) = setReceive y (sendBody b s) := rfl

theorem alarmBody_setReceive (d : Word32) (s : State) : alarmBody d (setReceive y s) = setReceive y (alarmBody d s) := rfl

/-- The guard of host operations reads the parameters, `initialized` and the hold. -/
theorem ignores_hostOp {k : State → Result} (hk : Ignores (setReceive y) k) (i : Instr) :
    Ignores (setReceive y) fun s => hostOp i s k := by
  intro s
  change hostOp i (setReceive y s) k = thenDo (hostOp i s k) _
  cases hv : s.cfg.valid with
  | false => rw [hostOp_invalid hv, hostOp_invalid (s := setReceive y s) hv, thenDo_refused]
  | true =>
    cases hi : s.initialized with
    | false => simp only [hostOp, afterInit_early hv hi, afterInit_early (s := setReceive y s) hv hi, thenDo_refused]
    | true =>
      have hl : Live s := ⟨hv, hi⟩
      cases hold : s.hold with
      | some w =>
        rw [hostOp_held hl hold, hostOp_held (s := setReceive y s) hl hold]
        rfl
      | none =>
        rw [hostOp_ready ⟨hl, hold⟩, hostOp_ready (s := setReceive y s) ⟨hl, hold⟩]
        exact hk s

theorem ignores_holdUntil_sendReady {k : State → Result} (hk : Ignores (setReceive y) k) (w : Hold) :
    Ignores (setReceive y) fun s => holdUntil s.sendReady w s k :=
  ignores_ite (fun _ => Iff.rfl) hk (ignores_next fun _ => rfl)

theorem ignores_periodsOrRefuse {k : State → Result} (hk : Ignores (setReceive y) k) (d : Word32) :
    Ignores (setReceive y) fun s => periodsOrRefuse d s k :=
  ignores_ite (fun _ => Iff.rfl) hk fun _ => rfl

/-- `ISR_CMPA`, `SEND`, `ALARM` and `DELAY` neither read nor write a receive field. -/
theorem exec_ignores_receive {i : Instr}
    (hi : i = .isrCmpa ∨ (∃ v, i = .send v) ∨ (∃ d, i = .alarm d) ∨ ∃ d, i = .delay d) :
    Ignores (setReceive y) (exec i) := by
  obtain rfl | ⟨v, rfl⟩ | ⟨d, rfl⟩ | ⟨d, rfl⟩ := hi
  · exact ignores_blockStep (fun _ => rfl) (fun _ => rfl) (fun _ => rfl) (ignores_next (isrCmpa_setReceive y))
  · exact ignores_hostOp y (ignores_holdUntil_sendReady y (ignores_next (sendBody_setReceive y v)) _) _
  · exact ignores_hostOp y (ignores_periodsOrRefuse y
      (ignores_holdUntil_sendReady y (ignores_next (alarmBody_setReceive y d)) _) d) _
  · exact ignores_hostOp y (ignores_periodsOrRefuse y
      (ignores_holdUntil_sendReady y
        (ignores_next (g := fun s => { alarmBody d s with hold := some .delayReturn }) fun _ => rfl) _) d) _

end

/-! ## The receive side ignores the transmit fields -/

section
variable (x : State)

theorem isrEdge_setTransmit (s : State) : isrEdge (setTransmit x s) = setTransmit x (isrEdge s) := by
  by_cases h : s.rxPin = 0#1 <;> simp [isrEdge, setTransmit, h, armChannel, enableChannel, raise, now]

theorem ignores_serveEdge : Ignores (setTransmit x) serveEdge :=
  ignores_ite (fun _ => Iff.rfl) (ignores_next (isrEdge_setTransmit x)) (ignores_next fun _ => rfl)

theorem deliverSingle_setTransmit (b : Byte) (s : State) :
    deliverSingle b (setTransmit x s) = setTransmit x (deliverSingle b s) := by
  by_cases ha : s.available = .byte <;> simp [deliverSingle, setTransmit, raise, ha]

theorem ignores_deliverRing (b : Byte) : Ignores (setTransmit x) (deliverRing b) := by
  have hwrite : Ignores (setTransmit x) fun s => memWrite s.head b s :=
    ignores_ite (fun _ => Iff.rfl) (ignores_next fun _ => rfl) fun _ => rfl
  exact ignores_ite (fun _ => Iff.rfl) (ignores_next fun _ => rfl) (ignores_thenDo hwrite (ignores_next fun _ => rfl))

theorem ignores_deliver (b : Byte) : Ignores (setTransmit x) (deliver b) := fun s => by
  cases hv : s.cfg.rxVariant with
  | single =>
    simp only [deliver, setTransmit_cfg, hv]
    exact ignores_next (deliverSingle_setTransmit x b) s
  | ring =>
    simp only [deliver, setTransmit_cfg, hv]
    exact ignores_deliverRing x b s

theorem recordFramingError_setTransmit (s : State) :
    recordFramingError (setTransmit x s) = setTransmit x (recordFramingError s) := by
  cases hv : s.cfg.rxVariant <;> simp [recordFramingError, setTransmit, raise, hv]

theorem rxSampleData_setTransmit (smp : Bit) (s : State) :
    rxSampleData smp (setTransmit x s) = setTransmit x (rxSampleData smp s) := by
  by_cases hb : s.rxBits - 1 = 0 <;> simp [rxSampleData, setTransmit, hb]

theorem ignores_rxCheckStop (smp : Bit) : Ignores (setTransmit x) (rxCheckStop smp) := by
  have hstop : Ignores (setTransmit x) fun s =>
      if smp = 1#1 then deliver s.rxAcc s else .next (recordFramingError s) :=
    ignores_ite (fun _ => Iff.rfl) (fun s => ignores_deliver x s.rxAcc s)
      (ignores_next (recordFramingError_setTransmit x))
  exact ignores_thenDo hstop (ignores_next fun _ => rfl)

theorem ignores_rxAdvance (smp : Bit) : Ignores (setTransmit x) (rxAdvance smp) := fun s => by
  cases hs : s.rxState <;> simp only [rxAdvance, setTransmit_rxState, hs]
  case idle => rfl
  case armedForStart => rfl
  case sampleData => exact ignores_next (rxSampleData_setTransmit x smp) s
  case checkStop => exact ignores_rxCheckStop x smp s

theorem ignores_isrCmpb : Ignores (setTransmit x) isrCmpb :=
  ignores_ite (fun _ => Iff.rfl) (ignores_next fun _ => rfl) fun s =>
    ignores_rxAdvance x s.rxPin { s with rxOs := s.cfg.N }

/-- `ISR_EDGE`, `ISR_CMPB` and `RXLINE` neither read nor write a transmit field. -/
theorem exec_ignores_transmit {i : Instr} (hi : i = .isrEdge ∨ i = .isrCmpb ∨ ∃ l, i = .rxline l) :
    Ignores (setTransmit x) (exec i) := by
  obtain rfl | rfl | ⟨l, rfl⟩ := hi
  · exact ignores_blockStep (fun _ => rfl) (fun _ => rfl) (fun _ => rfl) (ignores_next (isrEdge_setTransmit x))
  · exact ignores_blockStep (fun _ => rfl) (fun _ => rfl) (fun _ => rfl)
      (ignores_thenDo (ignores_isrCmpb x) (ignores_next fun _ => rfl))
  · exact ignores_blockStep (fun _ => rfl) (fun _ => rfl) (fun _ => rfl)
      fun s => ignores_serveEdge x (setLine l s)

end

/-! ## The two sides commute -/

/-- Where each of two operations writes only what the other ignores, their order does not matter. -/
theorem thenDo_comm_of_ignores {a b : State → Result} {s t : State} (hb : b s = .next t) (ht : t = setReceive t s)
    (ha : ∀ u, a s = .next u → u = setTransmit u s) (hA : Ignores (setReceive t) a)
    (hB : ∀ x, Ignores (setTransmit x) b) : thenDo (a s) b = thenDo (b s) a := by
  have hat : a t = thenDo (a s) fun u => .next (setReceive t u) := by
    conv_lhs => rw [ht]
    exact hA s
  rw [hb, thenDo_next, hat]
  cases hu : a s with
  | fault | refused => rfl
  | next u =>
    have hus := ha u hu
    calc b u = b (setTransmit u s) := congrArg b hus
      _ = .next (setTransmit u t) := by rw [hB, hb, thenDo_next]
      _ = .next (setTransmit u (setReceive t s)) := congrArg (fun v => Host.Outcome.next (setTransmit u v)) ht
      _ = .next (setReceive t (setTransmit u s)) := by rw [setReceive_setTransmit]
      _ = .next (setReceive t u) := congrArg (fun v => Host.Outcome.next (setReceive t v)) hus.symm

/-- `ISR_CMPA`, `SEND`, `ALARM` and `DELAY` write transmit fields only: they ignore the trace. -/
theorem exec_transmit_frame {i : Instr} {s u : State}
    (hi : i = .isrCmpa ∨ (∃ v, i = .send v) ∨ (∃ d, i = .alarm d) ∨ ∃ d, i = .delay d) (h : exec i s = .next u) :
    u = setTransmit u s := by
  have htrace : u.trace = s.trace :=
    (congrArg State.trace ((exec_ignores_receive s hi).setReceive_eq h) :)
  obtain rfl | ⟨v, rfl⟩ | ⟨d, rfl⟩ | ⟨d, rfl⟩ := hi
  · exact exec_isrCmpa_frame h
  all_goals
    obtain ⟨hu, -⟩ := exec_hostOp_frame rfl (by nofun) (by nofun) h
    rw [htrace] at hu
    exact hu

/-- Under the invariant a handler or an environment step answers a next state. -/
theorem exec_event_completes {i : Instr} {s : State} (hh : isHostOp i = false) (h : Invariant s) :
    ∃ t, exec i s = .next t := by
  cases he : exec i s with
  | next t => exact ⟨t, rfl⟩
  | fault f => exact absurd he (safeResult_exec h i f)
  | refused q => exact absurd ⟨q, he⟩ (not_refuses_event hh h.1)

/-! ## The two sides: the obligations -/

/-- Settles O57: each side writes only what the other ignores. -/
theorem transmitAndReceiveCommute : Obligations.TransmitAndReceiveCommute := by
  intro s a b hinv _ ha hb
  have hevent : isHostOp b = false := by obtain rfl | rfl | ⟨l, rfl⟩ := hb <;> rfl
  obtain ⟨t, ht⟩ := exec_event_completes hevent hinv
  exact thenDo_comm_of_ignores ht (exec_receiveEvent_frame hb ht).1 (fun _ => exec_transmit_frame ha)
    (exec_ignores_receive t ha) fun x => exec_ignores_transmit x hb

/-- Settles O53: the state after is the state before with transmit fields and the trace written. -/
theorem transmitSideFrame : Obligations.TransmitSideFrame := by
  intro i s t hi h
  have hwrites : ∃ tr, t = setTransmit t { s with trace := tr } ∧ (i ≠ .isrCmpa → t.txPin = s.txPin) := by
    obtain rfl | rfl | ⟨b, rfl⟩ | ⟨d, rfl⟩ | ⟨d, rfl⟩ := hi
    · exact ⟨s.trace, exec_isrCmpa_frame h, fun hne => absurd rfl hne⟩
    all_goals
      obtain ⟨ht, hpin⟩ := exec_hostOp_frame rfl (by nofun) (by nofun) h
      exact ⟨t.trace, ht, fun _ => hpin⟩
  obtain ⟨tr, ht, hpin⟩ := hwrites
  obtain ⟨hrx, hqueue, hclock, hplatform⟩ := setTransmit_same t { s with trace := tr }
  rw [← ht] at hrx hqueue hclock hplatform
  exact ⟨hrx, hqueue, hclock, hplatform, hpin⟩

/-- Settles O54: the state after is the state before with receive fields, the foreground's own fields and the trace written. -/
theorem receiveSideFrame : Obligations.ReceiveSideFrame := by
  intro i s t hi h
  have hsplit : (i = .isrEdge ∨ i = .isrCmpb ∨ ∃ l, i = .rxline l) ∨ i = .recv ∨ i = .avail := by
    simpa only [or_assoc] using hi
  obtain hevent | hhost := hsplit
  · obtain ⟨ht, hbuf⟩ := exec_receiveEvent_frame hevent h
    obtain ⟨htx, hclock, hplatform⟩ := setReceive_same t s
    rw [← ht] at htx hclock hplatform
    exact ⟨htx, hclock, hplatform, fun hne k => by rw [hbuf hne]⟩
  · rw [exec_receiveHostOp_frame hhost h]
    simp [SameTransmit, SameClock, SamePlatform, SameMemory]

end Sys2Proof.Machine
end

section
/-! SUPPORT. No step reprograms the block (20_memory.md R76), and a slot of the ring-buffer space reads back what was written
(R61). -/

namespace Sys2Proof.Machine

/-! ## The parameters -/

/-- The parameters are the same, and an initialized block stays initialized (R76, R270). -/
def KeepsProgramming (s t : State) : Prop := t.cfg = s.cfg ∧ (s.initialized = true → t.initialized = true)

theorem KeepsProgramming.refl (s : State) : KeepsProgramming s s := ⟨rfl, id⟩

theorem KeepsProgramming.of_eq {s t : State} (hc : t.cfg = s.cfg) (hi : t.initialized = s.initialized) :
    KeepsProgramming s t := ⟨hc, fun h => hi.trans h⟩

theorem keepsProgramming_isrCmpb {s t : State} (h : isrCmpb s = .next t) : KeepsProgramming s t := by
  rw [isrCmpb_frame h]
  exact .refl s

theorem keepsProgramming_tickBody {s t : State} (h : tickBody s = .next t) : KeepsProgramming s t := by
  obtain ⟨u, hu, ht⟩ := tickBody_eq_next h
  have hsu : u.cfg = s.cfg ∧ u.initialized = s.initialized := by
    obtain ⟨-, rfl⟩ | ⟨-, rfl⟩ := hu <;> simp
  obtain ⟨hc, hi⟩ := hsu
  obtain ⟨-, rfl⟩ | ⟨-, hb⟩ := ht
  · exact .of_eq hc hi
  · rw [isrCmpb_frame hb]
    exact .of_eq hc hi

theorem keepsProgramming_ite_isrEdge (c : Bool) (s : State) : KeepsProgramming s (if c then isrEdge s else s) := by
  cases c
  · exact .refl s
  · exact .of_eq (isrEdge_cfg s) (isrEdge_initialized s)

theorem keepsProgramming_exec_event {i : Instr} {s t : State} (hh : isHostOp i = false) (h : exec i s = .next t) :
    KeepsProgramming s t := by
  obtain ⟨-, -, early⟩ | ⟨-, live⟩ := exec_event_eq_next hh h
  · obtain rfl | ⟨l, -, rfl⟩ | ⟨v, -, rfl⟩ := early <;> exact .refl _
  · obtain ⟨-, rfl⟩ | ⟨-, rfl⟩ | ⟨-, hb⟩ | ⟨-, ht⟩ | ⟨l, -, rfl⟩ | ⟨v, -, rfl⟩ := live
    · exact .of_eq (isrEdge_cfg s) (isrEdge_initialized s)
    · exact .of_eq (isrCmpa_cfg s) (isrCmpa_initialized s)
    · exact keepsProgramming_isrCmpb hb
    · exact keepsProgramming_tickBody ht
    · exact keepsProgramming_ite_isrEdge _ (setLine l s)
    · exact keepsProgramming_ite_isrEdge _ { s with gie := decide (v = 1#1) }

theorem keepsProgramming_exec {i : Instr} {s t : State} (h : exec i s = .next t) : KeepsProgramming s t := by
  cases hh : isHostOp i with
  | false => exact keepsProgramming_exec_event hh h
  | true =>
    by_cases hn : i = .init
    · subst hn
      obtain ⟨-, -, rfl⟩ := exec_init_eq_next h
      exact ⟨rfl, fun _ => rfl⟩
    · by_cases hr : i = .recv
      · rw [exec_receiveHostOp_frame (.inl hr) h]
        exact .refl s
      · rw [(exec_hostOp_frame hh hn hr h).1]
        exact .refl s

theorem keepsProgramming_step {s t : State} (h : step s = .next t) : KeepsProgramming s t := by
  obtain ⟨u, hu, hmove⟩ := step_eq_next h
  have hut : KeepsProgramming u t := by
    obtain ⟨i, hi⟩ | hd | rfl := hmove
    · exact keepsProgramming_exec hi
    · obtain ⟨-, ⟨-, rfl⟩ | ⟨-, rfl⟩⟩ := delayReturn_eq_next hd <;> exact .refl _
    · exact .refl _
  rw [hu] at hut
  exact hut

/-! ## The ring-buffer space -/

theorem memRead_ge {i : Nat} {s : State} (h : s.cfg.C ≤ i) (k : Byte → Result) :
    memRead i s k = .fault (.ringIndexOutOfRange i) := by rw [memRead, if_neg (Nat.not_lt.2 h)]

theorem memWrite_ge {i : Nat} {s : State} (h : s.cfg.C ≤ i) (v : Byte) :
    memWrite i v s = .fault (.ringIndexOutOfRange i) := by rw [memWrite, if_neg (Nat.not_lt.2 h)]

/-- An access in range to a slot just written goes on with the byte written. -/
theorem memRead_write {i : Nat} {s : State} (hw : Memory.wf s.buf) (h : i < s.cfg.C) (v : Byte) (k : Byte → Result) :
    memRead i { s with buf := Memory.write s.buf i v } k = k v := by
  rw [memRead_lt (by exact h), Memory.read_write_same hw]

/-! ## The parameters and the ring-buffer space: the obligations -/

/-- Settles O52: every move keeps the parameters and `initialized`, and R49, which the step keeps, says `top = P`. -/
theorem noStepReprogramsTheBlock : Obligations.NoStepReprogramsTheBlock := by
  intro s t h
  obtain ⟨hcfg, hinit⟩ := keepsProgramming_step h
  refine ⟨hcfg, hinit, fun hinv hi => ?_⟩
  obtain ⟨-, -, -, -, ⟨htop, -⟩, -⟩ := InvLive.of_invariant (invariant_step hinv h) (hinit hi)
  rw [htop, hcfg]

/-- Settles O46: in range it is the read-after-write law of the space, and out of range the guard faults. -/
theorem ringSlotReadsBack : Obligations.RingSlotReadsBack := by
  intro s i v hw
  refine ⟨fun hi => ?_, fun hi => ⟨memWrite_ge hi v, memRead_ge hi⟩⟩
  exact ⟨_, memWrite_lt hi v, Memory.wf_write hw i v, Memory.read_write_same hw i v,
    fun _ => Memory.read_write_other hw v, rfl, memRead_write hw hi v⟩

end Sys2Proof.Machine
end

section
/-! SUPPORT. The opcode map on a stream of bytes (30_encoding.md R84 to R86), and what it answers for a reserved opcode and for
a command cut short (R87). -/

namespace Sys2Proof

/-! ## The operands -/

@[simp] theorem decodeImm8_cons (op : Byte) (k : Byte → Instr) (b : Byte) (rest : List Byte) :
    decodeImm8 op k (b :: rest) = .command (k b) rest := rfl

@[simp] theorem decodeImm32_cons (op : Byte) (k : Word32 → Instr) (b0 b1 b2 b3 : Byte) (rest : List Byte) :
    decodeImm32 op k (b0 :: b1 :: b2 :: b3 :: rest) = .command (k (imm32Of b0 b1 b2 b3)) rest := rfl

/-- Format `F1` asks for one byte. -/
theorem decodeImm8_cases (op : Byte) (k : Byte → Instr) (bs : List Byte) :
    (bs.length < 1 ∧ decodeImm8 op k bs = .bad (.truncated op)) ∨
    (1 ≤ bs.length ∧ ∃ i t, decodeImm8 op k bs = .command i t) := by
  match bs with
  | [] => exact .inl ⟨by simp, rfl⟩
  | b :: t => exact .inr ⟨by simp, _, _, decodeImm8_cons op k b t⟩

/-- Format `F4` asks for four bytes. -/
theorem decodeImm32_cases (op : Byte) (k : Word32 → Instr) (bs : List Byte) :
    (bs.length < 4 ∧ decodeImm32 op k bs = .bad (.truncated op)) ∨
    (4 ≤ bs.length ∧ ∃ i t, decodeImm32 op k bs = .command i t) := by
  match bs with
  | [] | [_] | [_, _] | [_, _, _] => exact .inl ⟨by simp, rfl⟩
  | b0 :: b1 :: b2 :: b3 :: t => exact .inr ⟨by simp, _, _, decodeImm32_cons op k b0 b1 b2 b3 t⟩

/-! ## The opcode map (R85) -/

section
variable (rest : List Byte)

@[simp] theorem decodeCommand_init : decodeCommand (0x00#8 :: rest) = .command .init rest := rfl
@[simp] theorem decodeCommand_avail : decodeCommand (0x01#8 :: rest) = .command .avail rest := rfl
@[simp] theorem decodeCommand_txrdy : decodeCommand (0x02#8 :: rest) = .command .txrdy rest := rfl
@[simp] theorem decodeCommand_send : decodeCommand (0x03#8 :: rest) = decodeImm8 0x03#8 .send rest := rfl
@[simp] theorem decodeCommand_recv : decodeCommand (0x04#8 :: rest) = .command .recv rest := rfl
@[simp] theorem decodeCommand_alarm : decodeCommand (0x05#8 :: rest) = decodeImm32 0x05#8 .alarm rest := rfl
@[simp] theorem decodeCommand_delay : decodeCommand (0x06#8 :: rest) = decodeImm32 0x06#8 .delay rest := rfl

end

theorem decodeCommand_reserved {op : Byte} (h : 7 ≤ op.toNat) (rest : List Byte) :
    decodeCommand (op :: rest) = .bad (.reservedOpcode op) := by
  obtain ⟨n, hn⟩ := Nat.exists_eq_add_of_le' h
  simp only [decodeCommand, hn]

theorem opcode_cases {op : Byte} (h : op.toNat < 7) :
    op = 0x00#8 ∨ op = 0x01#8 ∨ op = 0x02#8 ∨ op = 0x03#8 ∨ op = 0x04#8 ∨ op = 0x05#8 ∨ op = 0x06#8 := by
  bv_omega

/-- A string that begins with an opcode of R85 is a command exactly when it is as long as the opcode's format (R87). -/
theorem decodeCommand_cases {op : Byte} (h : op.toNat < 7) (rest : List Byte) :
    (rest.length + 1 < commandLength op ∧ decodeCommand (op :: rest) = .bad (.truncated op)) ∨
    (commandLength op ≤ rest.length + 1 ∧ ∃ i t, decodeCommand (op :: rest) = .command i t) := by
  have noOperand : 1 ≤ rest.length + 1 := Nat.le_add_left 1 _
  obtain rfl | rfl | rfl | rfl | rfl | rfl | rfl := opcode_cases h
  · exact .inr ⟨noOperand, _, _, decodeCommand_init rest⟩
  · exact .inr ⟨noOperand, _, _, decodeCommand_avail rest⟩
  · exact .inr ⟨noOperand, _, _, decodeCommand_txrdy rest⟩
  · exact (decodeImm8_cases _ .send rest).imp (.imp_left Nat.succ_lt_succ) (.imp_left Nat.succ_le_succ)
  · exact .inr ⟨noOperand, _, _, decodeCommand_recv rest⟩
  · exact (decodeImm32_cases _ .alarm rest).imp (.imp_left Nat.succ_lt_succ) (.imp_left Nat.succ_le_succ)
  · exact (decodeImm32_cases _ .delay rest).imp (.imp_left Nat.succ_lt_succ) (.imp_left Nat.succ_le_succ)

theorem decodeCommand_truncated {op : Byte} {rest : List Byte} (h : op.toNat < 7)
    (hshort : rest.length + 1 < commandLength op) : decodeCommand (op :: rest) = .bad (.truncated op) := by
  obtain ⟨-, hbad⟩ | ⟨hlong, -⟩ := decodeCommand_cases h rest
  · exact hbad
  · exact absurd hshort (Nat.not_lt.2 hlong)

theorem decodeCommand_complete {op : Byte} {rest : List Byte} (h : op.toNat < 7)
    (hlong : commandLength op ≤ rest.length + 1) : ∃ i t, decodeCommand (op :: rest) = .command i t := by
  obtain ⟨hshort, -⟩ | ⟨-, hcommand⟩ := decodeCommand_cases h rest
  · exact absurd hshort (Nat.not_lt.2 hlong)
  · exact hcommand

namespace Machine

/-- A foreground that comes to bytes that are no command rejects them on its turn (R87). -/
theorem step_bad {s : State} {e : DecodeError} (hv : s.vector = none) (hm : mover s = .foreground) (hh : s.hold = none)
    (hbad : decodeCommand s.program = .bad e) : step s = perform (rejectCommand e (takeTurn s)) := by
  simp [step, nextMove, hv, hm, foregroundMove, takeTurn, hh, hbad]

/-! ## The opcode map: the obligations -/

/-- Settles O5: an opcode below 7 asks for the bytes of its format and no more, and the step rejects what the decoder does. -/
theorem reservedOpcodesAreRefused : Obligations.ReservedOpcodesAreRefused := by
  refine ⟨fun _ rest h => decodeCommand_reserved h rest, fun _ _ => decodeCommand_truncated,
    fun _ _ => decodeCommand_complete, fun s op rest hv hm hh hp => ⟨fun hop => ?_, fun hop hshort => ?_⟩⟩
  · exact step_bad hv hm hh (hp ▸ decodeCommand_reserved hop rest)
  · exact step_bad hv hm hh (hp ▸ decodeCommand_truncated hop hshort)

/-- Settles O2, opcode by opcode; the value of `imm32` is that of its bytes, least significant first. -/
theorem opcodeMapOfCommands : Obligations.OpcodeMapOfCommands := by
  intro rest
  refine ⟨decodeCommand_init rest, decodeCommand_avail rest, decodeCommand_txrdy rest, fun b => ?_, decodeCommand_recv rest,
    fun b0 b1 b2 b3 => ⟨imm32Of b0 b1 b2 b3, imm32Of_toNat b0 b1 b2 b3, ?_, ?_⟩⟩
  · rw [decodeCommand_send, decodeImm8_cons]
  · rw [decodeCommand_alarm, decodeImm32_cons]
  · rw [decodeCommand_delay, decodeImm32_cons]

end Machine

end Sys2Proof
end

section
/-! SUPPORT. BitClock (40_bitclock.md): the primitives (R100 to R104), the handlers `TICK` runs (R106), what every `TICK` leaves
alone, the counter after a number of ticks, and the period law (R107). -/

namespace Sys2Proof.Machine

/-! ## `TICK` (R105, R106) -/

theorem fires_A_iff (s : State) : fires .A s = true ↔ s.cnt = s.cmpA ∧ s.ieA = true ∧ s.gie = true := by
  simp [fires, delivered, channelMatch, channelEnabled, and_assoc]

theorem fires_B_iff (s : State) : fires .B s = true ↔ s.cnt = s.cmpB ∧ s.ieB = true ∧ s.gie = true := by
  simp [fires, delivered, channelMatch, channelEnabled, and_assoc]

/-- `TICK` in terms of the handlers' own rows: both requests come from the state before the increment. -/
theorem exec_tick_eq_handlers {s : State} (h : Live s) :
    exec .tick s = thenDo (if fires .A s then exec .isrCmpa (countUp s) else .next (countUp s)) fun u =>
      if fires .B s then exec .isrCmpb u else .next u := by
  have hA : exec .isrCmpa (countUp s) = .next (isrCmpa (countUp s)) := exec_isrCmpa h
  have hB : exec .isrCmpb (countUp s) = isrCmpb (countUp s) := exec_isrCmpb h
  have hAB : exec .isrCmpb (isrCmpa (countUp s)) = isrCmpb (isrCmpa (countUp s)) := exec_isrCmpb (live_isrCmpa h)
  rw [exec_tick h, tickBody, hA]
  cases fires .A s <;> cases fires .B s <;> simp [hB, hAB]

/-- What `TICK` does whichever handlers run: they write neither the clock, the line, the consumer's index, the platform nor the
inputs (R73). -/
theorem tickBody_frame {s t : State} (h : tickBody s = .next t) :
    t.cnt = (s.cnt + 1) % s.top ∧ t.top = s.top ∧ t.rxPin = s.rxPin ∧ t.tail = s.tail ∧
    SamePlatform s t ∧ SameInputs s t := by
  obtain ⟨u, hu, ht⟩ := tickBody_eq_next h
  have hframe : u.cnt = (s.cnt + 1) % s.top ∧ u.top = s.top ∧ u.rxPin = s.rxPin ∧ u.tail = s.tail ∧
      SamePlatform s u ∧ SameInputs s u := by
    obtain ⟨-, rfl⟩ | ⟨-, rfl⟩ := hu <;> simp [SamePlatform, SameInputs]
  obtain ⟨-, rfl⟩ | ⟨-, hb⟩ := ht
  · exact hframe
  · rw [isrCmpb_frame hb]
    exact hframe

/-- Under R49 the counter moves by one modulo `P`, and the state after is again one of R49. -/
theorem exec_tick_completes {s : State} (h : Invariant s) (hi : s.initialized = true) :
    ∃ t, exec .tick s = .next t ∧ Invariant t ∧ t.cnt = (s.cnt + 1) % s.cfg.P ∧ t.top = s.top ∧ t.rxPin = s.rxPin ∧
      t.tail = s.tail ∧ SamePlatform s t ∧ SameInputs s t := by
  obtain ⟨t, ht⟩ := exec_event_completes (i := .tick) rfl h
  obtain ⟨-, -, -, -, ⟨htop, -⟩, -⟩ := InvLive.of_invariant h hi
  have hframe := tickBody_frame (exec_tick ⟨h.1, hi⟩ ▸ ht)
  rw [htop] at hframe ⊢
  exact ⟨t, ht, invariant_exec h ht, hframe⟩

/-! ## Many ticks (R107) -/

/-- The counter of a block that meets R49 runs freely: after `n` ticks it has moved by `n` modulo `P`. -/
theorem ticks_complete {s : State} (h : Invariant s) (hi : s.initialized = true) (n : Nat) :
    ∃ t, ticks n s = .next t ∧ Invariant t ∧ SamePlatform s t ∧ t.cnt = (s.cnt + n) % s.cfg.P := by
  induction n with
  | zero =>
    obtain ⟨-, -, -, -, ⟨-, hcnt, -⟩, -⟩ := InvLive.of_invariant h hi
    exact ⟨s, rfl, h, ⟨rfl, rfl, rfl⟩, (Nat.mod_eq_of_lt hcnt).symm⟩
  | succ n ih =>
    obtain ⟨t, ht, hinv, ⟨hcfg, hgie, hinit⟩, hcnt⟩ := ih
    obtain ⟨u, hu, hinvU, hcntU, -, -, -, ⟨hcfgU, hgieU, hinitU⟩, -⟩ := exec_tick_completes hinv (hinit.trans hi)
    refine ⟨u, by rw [ticks, ht, thenDo_next, hu], hinvU, ⟨hcfgU.trans hcfg, hgieU.trans hgie, hinitU.trans hinit⟩, ?_⟩
    rw [hcntU, hcnt, hcfg, Nat.mod_add_mod, Nat.add_assoc]

/-- A counter that moves by one each tick meets a compare value `k < P` ticks away exactly when `n mod P = k`. -/
theorem add_mod_eq_iff_mod_eq {P k : Nat} (hk : k < P) (c n : Nat) : (c + n) % P = (c + k) % P ↔ n % P = k :=
  calc (c + n) % P = (c + k) % P
    _ ↔ n % P = k % P := Nat.ModEq.add_iff_left (Nat.ModEq.refl c)
    _ ↔ n % P = k := by rw [Nat.mod_eq_of_lt hk]

/-! ## BitClock: the obligations -/

/-- Settles O22: the invariant keeps `cnt < P`, so the sum modulo `P` wraps at `P - 1` only. -/
theorem tickAlwaysCompletes : Obligations.TickAlwaysCompletes := by
  intro s h hi
  obtain ⟨-, -, -, -, ⟨-, hcnt, -⟩, -⟩ := InvLive.of_invariant h hi
  obtain ⟨t, ht, -, hcntT, hframe⟩ := exec_tick_completes h hi
  refine ⟨t, ht, ?_, hframe⟩
  rw [hcntT]
  split
  case isTrue hwrap => rw [hwrap, Nat.mod_self]
  case isFalse hne => exact Nat.mod_eq_of_lt (by omega)

/-- Settles O23: after `n` ticks the counter is `cnt + n` modulo `P`, and it is compared with `cnt + k` modulo `P`. -/
theorem periodLaw : Obligations.PeriodLaw := by
  intro s h hi n
  obtain ⟨t, ht, -, -, hcnt⟩ := ticks_complete h hi n
  refine ⟨t, ht, hcnt, fun k hk hcmp hie hgie => ?_, fun k hk hcmp hie hgie => ?_⟩
  · rw [fires_A_iff, and_iff_left ⟨hie, hgie⟩, hcnt, hcmp, add_mod_eq_iff_mod_eq hk]
  · rw [fires_B_iff, and_iff_left ⟨hie, hgie⟩, hcnt, hcmp, add_mod_eq_iff_mod_eq hk]

/-- Settles O21: the four cases are the four ways the two requests of `TICK` can turn out. -/
theorem tickRunsTheMatchingHandlers : Obligations.TickRunsTheMatchingHandlers := by
  intro s hl
  simp only [← fires_A_iff, ← fires_B_iff, exec_tick_eq_handlers hl]
  refine ⟨fun hA hB => ?_, fun hA hB => ?_, fun hA hB => ?_, fun hA hB => ?_⟩
  · rw [if_neg hA, thenDo_next, if_neg hB]; rfl
  · simp only [if_pos hA, if_neg hB, thenDo_pure]; rfl
  · rw [if_neg hA, thenDo_next, if_pos hB]; rfl
  · simp only [if_pos hA, if_pos hB]; rfl

/-- Settles O20: each primitive is the update its rule writes. -/
theorem bitClockPrimitives : Obligations.BitClockPrimitives :=
  fun _ _ => ⟨rfl, rfl, rfl, rfl, rfl, rfl, rfl, rfl⟩

end Sys2Proof.Machine
end

section
/-! SUPPORT. TxEngine (41_tx_engine.md): `TXRDY`, `SEND` and the arms of the channel-A handler (R120 to R127), when the handler
advances the engine, and from that the waveform law (R128), the duration law (R129) and no abort (R131, R174). -/

namespace Sys2Proof.Machine

/-! ## One advance, arm by arm (R123 to R127) -/

theorem txAdvance_idle {s : State} (h : s.txState = .idle) : txAdvance s = s := by simp only [txAdvance, h]

theorem txAdvance_sendStart {s : State} (h : s.txState = .sendStart) :
    txAdvance s = { s with txPin := 0#1, txBits := 8, txState := .sendData } := by simp only [txAdvance, h, txSendStart]

theorem txAdvance_sendData_more {s : State} (h : s.txState = .sendData) (hb : 1 < s.txBits) :
    txAdvance s =
      { s with txPin := s.txShift.extractLsb' 0 1, txShift := s.txShift >>> 1, txBits := s.txBits - 1 } := by
  simp only [txAdvance, h, txSendData, lowBit]
  rw [if_neg (Nat.sub_ne_zero_of_lt hb)]

theorem txAdvance_sendData_last {s : State} (h : s.txState = .sendData) (hb : s.txBits = 1) :
    txAdvance s =
      { s with
        txPin := s.txShift.extractLsb' 0 1, txShift := s.txShift >>> 1, txBits := 0, txState := .sendStop } := by
  simp only [txAdvance, h, txSendData, lowBit, hb, Nat.sub_self, if_true]

theorem txAdvance_sendStop {s : State} (h : s.txState = .sendStop) :
    txAdvance s = { s with txPin := 1#1, txState := .finishing } := by simp only [txAdvance, h, txSendStop]

theorem txAdvance_finishing {s : State} (h : s.txState = .finishing) :
    txAdvance s = { s with sendReady := true, txState := .idle, ieA := false } := by
  simp only [txAdvance, h, txFinishing, disableChannel]

/-- On a live block the handler at the end of its countdown reloads it and advances the engine (R122). -/
theorem exec_isrCmpa_advance {s : State} (h : Live s) (hos : s.txOs ≤ 1) :
    exec .isrCmpa s = .next (txAdvance { s with txOs := s.cfg.N }) := by rw [exec_isrCmpa h, isrCmpa_advance hos]

/-- A `SEND` that does not have to wait completes with its body (R121). -/
theorem exec_send_sendReady {s : State} (h : Ready s) (hr : s.sendReady = true) (b : Byte) :
    exec (.send b) s = .next (sendBody b s) := by rw [exec_send h, holdUntil_lifted hr]

/-! ## What an advance depends on -/

/-- The fields an advance reads or writes are the same. -/
abbrev SameEngine (s t : State) : Prop :=
  t.ieA = s.ieA ∧ t.txPin = s.txPin ∧ t.txState = s.txState ∧ t.txBits = s.txBits ∧ t.txShift = s.txShift ∧
  t.delayCounter = s.delayCounter ∧ t.sendReady = s.sendReady

theorem SameEngine.trans {s t u : State} (h : SameEngine s t) (h' : SameEngine t u) : SameEngine s u := by
  obtain ⟨hie, hpin, hstate, hbits, hshift, hdelay, hready⟩ := h
  simpa only [SameEngine, hie, hpin, hstate, hbits, hshift, hdelay, hready] using h'

theorem SameTransmit.sameEngine {s t : State} (h : SameTransmit s t) : SameEngine s t := by
  obtain ⟨-, hie, hpin, hstate, hbits, hshift, hdelay, -, hready⟩ := h
  exact ⟨hie, hpin, hstate, hbits, hshift, hdelay, hready⟩

/-- An advance answers for the engine's fields from the engine's fields alone. -/
theorem sameEngine_txAdvance {s t : State} (h : SameEngine s t) : SameEngine (txAdvance s) (txAdvance t) := by
  obtain ⟨hie, hpin, hstate, hbits, hshift, hdelay, hready⟩ := h
  cases hs : s.txState with
  | idle | sendStart | sendStop | finishing =>
    simp [SameEngine, txAdvance, hie, hpin, hstate, hbits, hshift, hdelay, hready, hs, txSendStart, txSendStop,
      txFinishing, disableChannel]
  | sendData =>
    by_cases hb : s.txBits - 1 = 0 <;>
      simp [SameEngine, txAdvance, hie, hstate, hbits, hshift, hdelay, hready, hs, txSendData, hb]
  | timedDelay =>
    by_cases hd : delayCountdown s.delayCounter = 0#32 <;>
      simp [SameEngine, txAdvance, hie, hpin, hstate, hbits, hshift, hdelay, hready, hs, txTimedDelay, hd, disableChannel]

/-! ## When the engine advances (R105, R107, R122) -/

/-- On the transmit side `TICK` runs the channel-A handler, if its request is delivered, and does nothing else. -/
theorem tickBody_sameTransmit {s t : State} (h : tickBody s = .next t) :
    SameTransmit (if fires .A s then isrCmpa (countUp s) else countUp s) t := by
  obtain ⟨u, hu, ht⟩ := tickBody_eq_next h
  have hsu : (if fires .A s then isrCmpa (countUp s) else countUp s) = u := by
    obtain ⟨hA, rfl⟩ | ⟨hA, rfl⟩ := hu <;> simp [hA]
  rw [hsu]
  obtain ⟨-, rfl⟩ | ⟨-, hb⟩ := ht
  · simp [SameTransmit]
  · rw [isrCmpb_frame hb]
    simp [SameTransmit]

/-- The engine is idle, or the tick that advances it comes after `w` others: `d` ticks to channel A's next match, and a period
for each further match of the countdown. -/
def AdvanceIn (w : Nat) (s : State) : Prop :=
  s.txState ≠ .idle → ∃ d, d < s.cfg.P ∧ s.cmpA = (s.cnt + d) % s.cfg.P ∧ w = d + (s.txOs - 1) * s.cfg.P

/-- A tick without the request leaves the transmit side alone. -/
theorem tick_silent {s t : State} (h : tickBody s = .next t) (hA : fires .A s = false) : SameTransmit s t := by
  have hsame := tickBody_sameTransmit h
  rw [hA] at hsame
  exact hsame

/-- An idle engine has channel A disabled, and no tick touches it (R49 item 2). -/
theorem tick_idle {s t : State} (h : tickBody s = .next t) (hinv : InvTx s) (hidle : s.txState = .idle) :
    SameEngine s t := by
  obtain ⟨-, hie, -⟩ := hinv
  have hoff : s.ieA = false := by simpa [hidle] using hie
  exact (tick_silent h (by simp [fires, delivered, channelEnabled, hoff])).sameEngine

/-- A tick whose handler counts down leaves the engine alone. -/
theorem tick_countdown {s t : State} (h : tickBody s = .next t) (hA : fires .A s = true) (hos : 1 < s.txOs) :
    SameEngine s t ∧ t.cmpA = s.cmpA ∧ t.txOs = s.txOs - 1 := by
  have hsame := tickBody_sameTransmit h
  rw [if_pos hA, isrCmpa_countdown (s := countUp s) hos] at hsame
  obtain ⟨hcmp, hie, hpin, hstate, hbits, hshift, hdelay, hosT, hready⟩ := hsame
  exact ⟨⟨hie, hpin, hstate, hbits, hshift, hdelay, hready⟩, hcmp, hosT⟩

/-- A tick whose handler is at the end of its countdown makes one advance. -/
theorem tick_advance {s t : State} (h : tickBody s = .next t) (hA : fires .A s = true) (hos : s.txOs ≤ 1) :
    SameEngine (txAdvance s) t ∧ t.cmpA = s.cmpA ∧ t.txOs = s.cfg.N := by
  have hsame := tickBody_sameTransmit h
  rw [if_pos hA] at hsame
  obtain ⟨hcmp, -, -, -, -, -, -, hosT, -⟩ := id hsame
  have hadvance : SameEngine (txAdvance s) (isrCmpa (countUp s)) := by
    rw [isrCmpa_advance (s := countUp s) hos]
    exact sameEngine_txAdvance (by simp [SameEngine, countUp])
  refine ⟨hadvance.trans hsame.sameEngine, hcmp.trans (isrCmpa_cmpA _), ?_⟩
  rw [hosT, isrCmpa_advance (s := countUp s) hos, txAdvance_txOs]
  rfl

/-- The request of an enabled channel A is delivered in the tick in which no tick is left to wait. -/
theorem fires_A_iff_wait_over {s : State} {d : Nat} (hcnt : s.cnt < s.cfg.P) (hd : d < s.cfg.P)
    (hcmp : s.cmpA = (s.cnt + d) % s.cfg.P) (hie : s.ieA = true) (hgie : s.gie = true) : fires .A s = true ↔ d = 0 := by
  have hmatch := add_mod_eq_iff_mod_eq hd s.cnt 0
  rw [Nat.add_zero, Nat.mod_eq_of_lt hcnt, Nat.zero_mod, eq_comm (a := 0)] at hmatch
  rw [fires_A_iff, and_iff_left ⟨hie, hgie⟩, hcmp, hmatch]

/-- After a match the counter meets the compare value again in `P` ticks. -/
theorem match_recurs {P c : Nat} (hc : c < P) : c = ((c + 1) % P + (P - 1)) % P := by
  rw [Nat.mod_add_mod, Nat.add_assoc, Nat.add_sub_cancel' (Nat.zero_lt_of_lt hc), Nat.add_mod_right,
    Nat.mod_eq_of_lt hc]

/-- `k` periods are one tick, the rest of the first period, and `k - 1` periods more. -/
theorem periods_eq_succ {P k : Nat} (hP : 0 < P) (hk : 0 < k) : k * P = P - 1 + (k - 1) * P + 1 := by
  obtain ⟨k, rfl⟩ := Nat.exists_eq_add_one_of_ne_zero hk.ne'
  rw [Nat.add_sub_cancel, Nat.succ_mul]
  omega

/-- After a tick in which channel A matched, its next match is one period from the last. -/
theorem advanceIn_of_match {s t : State} (hcnt : s.cnt < s.cfg.P) (hcfgT : t.cfg = s.cfg)
    (hcntT : t.cnt = (s.cnt + 1) % s.cfg.P) (hcmpT : t.cmpA = s.cnt) :
    AdvanceIn (s.cfg.P - 1 + (t.txOs - 1) * s.cfg.P) t := by
  refine fun _ => ⟨s.cfg.P - 1, ?_, ?_, ?_⟩
  · rw [hcfgT]
    exact Nat.sub_one_lt_of_lt hcnt
  · rw [hcmpT, hcntT, hcfgT]
    exact match_recurs hcnt
  · rw [hcfgT]

/-- One tick: the wait gets shorter by one, or it is over and the engine advances, to wait one bit again. -/
theorem advanceIn_tick {s t : State} {w : Nat} (h : Running s) (hw : AdvanceIn w s) (ht : exec .tick s = .next t) :
    (∃ w', w = w' + 1 ∧ SameEngine s t ∧ AdvanceIn w' t) ∨
    (w = 0 ∧ SameEngine (txAdvance s) t ∧ AdvanceIn (bitTicks s.cfg - 1) t) := by
  obtain ⟨hinv, hi, hgie⟩ := h
  obtain ⟨hv, -, htx, -, ⟨htop, hcnt, -⟩, -⟩ := InvLive.of_invariant hinv hi
  have htick : tickBody s = .next t := exec_tick ⟨hv, hi⟩ ▸ ht
  obtain ⟨hcntT, -, -, -, ⟨hcfgT, -⟩, -⟩ := tickBody_frame htick
  rw [htop] at hcntT
  by_cases hidle : s.txState = .idle
  · have hsame := tick_idle htick htx hidle
    obtain ⟨-, -, hstateT, -⟩ := id hsame
    have hidleT (w' : Nat) : AdvanceIn w' t := fun hbusy => absurd (hstateT.trans hidle) hbusy
    cases w with
    | zero => exact .inr ⟨rfl, (txAdvance_idle hidle).symm ▸ hsame, hidleT _⟩
    | succ w' => exact .inl ⟨w', rfl, hsame, hidleT _⟩
  · obtain ⟨d, hd, hcmp, rfl⟩ := hw hidle
    obtain ⟨-, hie⟩ := sendReady_ieA_of_busy htx hidle
    have hA := fires_A_iff_wait_over hcnt hd hcmp hie hgie
    cases d with
    | succ d =>
      have hsame := tick_silent htick (by simpa using hA)
      obtain ⟨hcmpT, -, -, -, -, -, -, hosT, -⟩ := id hsame
      refine .inl ⟨d + (s.txOs - 1) * s.cfg.P, by omega, hsame.sameEngine, fun _ => ⟨d, ?_, ?_, ?_⟩⟩
      · exact hcfgT ▸ Nat.lt_of_succ_lt hd
      · rw [hcmpT, hcmp, hcntT, hcfgT, Nat.mod_add_mod, Nat.add_assoc, Nat.add_comm 1]
      · rw [hosT, hcfgT]
    | zero =>
      rw [Nat.add_zero, Nat.mod_eq_of_lt hcnt] at hcmp
      have hfire : fires .A s = true := hA.2 rfl
      by_cases hlast : s.txOs ≤ 1
      · obtain ⟨hengine, hcmpT, hosT⟩ := tick_advance htick hfire hlast
        have hwait : bitTicks s.cfg - 1 = s.cfg.P - 1 + (t.txOs - 1) * s.cfg.P := by
          rw [hosT, bitTicks, periods_eq_succ hd (one_le_N_of_valid hv), Nat.add_sub_cancel]
        refine .inr ⟨by rw [Nat.sub_eq_zero_of_le hlast, Nat.zero_mul], hengine, ?_⟩
        rw [hwait]
        exact advanceIn_of_match hcnt hcfgT hcntT (hcmpT.trans hcmp)
      · obtain ⟨hengine, hcmpT, hosT⟩ := tick_countdown htick hfire (Nat.not_le.1 hlast)
        refine .inl ⟨_, ?_, hengine, advanceIn_of_match hcnt hcfgT hcntT (hcmpT.trans hcmp)⟩
        rw [hosT, Nat.zero_add, periods_eq_succ hd (by omega)]

/-- The receive line moves neither the engine nor its wait. -/
theorem advanceIn_rxline {s t : State} {w : Nat} {l : Bit} (hw : AdvanceIn w s) (ht : exec (.rxline l) s = .next t) :
    SameEngine s t ∧ AdvanceIn w t := by
  obtain ⟨hframe, -⟩ := exec_receiveEvent_frame (.inr (.inr ⟨l, rfl⟩)) ht
  rw [hframe]
  exact ⟨by simp [SameEngine, setReceive], hw⟩

/-! ## Runs of `TICK` and `RXLINE` -/

/-- What each tick carries from `m` ticks to `m + 1`, and the receive line leaves alone, holds after every run. -/
theorem runAll_tickOrLine {Q : Nat → State → Prop}
    (htick : ∀ m s, Q m s → ∃ t, exec .tick s = .next t ∧ Q (m + 1) t)
    (hline : ∀ m s l, Q m s → ∃ t, exec (.rxline l) s = .next t ∧ Q m t)
    (steps : List Instr) (hsteps : ∀ i ∈ steps, isTickOrLine i = true) (m : Nat) (s : State) (hs : Q m s) :
    ∃ t, runAll steps s = .next t ∧ Q (m + steps.count .tick) t := by
  induction steps generalizing m s with
  | nil => exact ⟨s, rfl, hs⟩
  | cons i rest ih =>
    obtain ⟨hi, hrest⟩ := List.forall_mem_cons.1 hsteps
    cases i with
    | tick =>
      obtain ⟨u, hu, hQ⟩ := htick m s hs
      obtain ⟨t, ht, hQt⟩ := ih hrest (m + 1) u hQ
      refine ⟨t, by rw [runAll, hu, thenDo_next, ht], ?_⟩
      rw [List.count_cons_self, Nat.add_comm _ 1, ← Nat.add_assoc]
      exact hQt
    | rxline l =>
      obtain ⟨u, hu, hQ⟩ := hline m s l hs
      obtain ⟨t, ht, hQt⟩ := ih hrest m u hQ
      refine ⟨t, by rw [runAll, hu, thenDo_next, ht], ?_⟩
      rw [List.count_cons_of_ne (by nofun)]
      exact hQt
    | init | avail | txrdy | send | recv | alarm | delay | isrEdge | isrCmpa | isrCmpb | gie => cases hi

/-- `m` ticks after `s`, whose first advance was `w` ticks away: `n` advances are made, and the next is `w'` ticks away. -/
def OnSchedule (s : State) (w m : Nat) (t : State) : Prop :=
  Running t ∧ t.cfg = s.cfg ∧ ∃ n w', w' < bitTicks s.cfg ∧ m + w' = w + n * bitTicks s.cfg ∧
    SameEngine (txAdvance^[n] s) t ∧ AdvanceIn w' t

theorem onSchedule_tick {s t : State} {w m : Nat} (h : OnSchedule s w m t) :
    ∃ u, exec .tick t = .next u ∧ OnSchedule s w (m + 1) u := by
  obtain ⟨hrun, hcfg, n, w', hlt, hwait, hengine, hw⟩ := h
  obtain ⟨hinv, hi, hgie⟩ := id hrun
  obtain ⟨u, hu, hinvU, -, -, -, -, ⟨hcfgU, hgieU, hiU⟩, -⟩ := exec_tick_completes hinv hi
  refine ⟨u, hu, ⟨hinvU, hiU.trans hi, hgieU.trans hgie⟩, hcfgU.trans hcfg, ?_⟩
  obtain ⟨w'', rfl, hsame, hwU⟩ | ⟨rfl, hadvance, hwU⟩ := advanceIn_tick hrun hw hu
  · exact ⟨n, w'', Nat.lt_of_succ_lt hlt, by omega, hengine.trans hsame, hwU⟩
  · rw [hcfg] at hwU
    refine ⟨n + 1, bitTicks s.cfg - 1, by omega, ?_, ?_, hwU⟩
    · rw [Nat.succ_mul]
      omega
    · rw [Function.iterate_succ_apply']
      exact (sameEngine_txAdvance hengine).trans hadvance

theorem onSchedule_rxline {s t : State} {w m : Nat} (l : Bit) (h : OnSchedule s w m t) :
    ∃ u, exec (.rxline l) t = .next u ∧ OnSchedule s w m u := by
  obtain ⟨⟨hinv, hi, hgie⟩, hcfg, n, w', hlt, hwait, hengine, hw⟩ := h
  obtain ⟨u, hu⟩ := exec_event_completes (i := .rxline l) rfl hinv
  obtain ⟨hframe, -⟩ := exec_receiveEvent_frame (.inr (.inr ⟨l, rfl⟩)) hu
  obtain ⟨-, -, hcfgU, hgieU, hiU⟩ := setReceive_same u t
  rw [← hframe] at hcfgU hgieU hiU
  obtain ⟨hsame, hwU⟩ := advanceIn_rxline hw hu
  exact ⟨u, hu, ⟨invariant_exec hinv hu, hiU.trans hi, hgieU.trans hgie⟩, hcfgU.trans hcfg, n, w', hlt, hwait,
    hengine.trans hsame, hwU⟩

/-- How many advances the first `m` ticks make, the first of them in tick `w + 1` and one in each bit period after it. -/
def advancesBy (c : Config) (w m : Nat) : Nat := (m + (bitTicks c - 1 - w)) / bitTicks c

/-- The advances that `m` ticks make are those whose wait is over. -/
theorem advancesBy_eq {c : Config} {w m n w' : Nat} (hw : w < bitTicks c) (hw' : w' < bitTicks c)
    (h : m + w' = w + n * bitTicks c) : advancesBy c w m = n := by
  have hsum : m + (bitTicks c - 1 - w) = bitTicks c - 1 - w' + n * bitTicks c := by omega
  rw [advancesBy, hsum, Nat.add_mul_div_right _ _ (Nat.zero_lt_of_lt hw), Nat.div_eq_of_lt (by omega), Nat.zero_add]

/-- The engine's clock: whatever the receive line does, a run of `TICK` and `RXLINE` leaves the engine as the advances due by
its number of ticks do. -/
theorem runAll_engine {s : State} {w : Nat} (h : Running s) (hw : AdvanceIn w s) (hlt : w < bitTicks s.cfg)
    (steps : List Instr) (hsteps : ∀ i ∈ steps, isTickOrLine i = true) :
    ∃ t, runAll steps s = .next t ∧ SameEngine (txAdvance^[advancesBy s.cfg w (steps.count .tick)] s) t := by
  have hstart : OnSchedule s w 0 s := ⟨h, rfl, 0, w, hlt, by omega, by simp [SameEngine], hw⟩
  obtain ⟨t, ht, -, -, n, w', hlt', hwait, hengine, -⟩ := runAll_tickOrLine (Q := OnSchedule s w)
    (fun _ _ => onSchedule_tick) (fun _ _ => onSchedule_rxline) steps hsteps 0 s hstart
  rw [Nat.zero_add] at hwait
  exact ⟨t, ht, (advancesBy_eq hlt hlt' hwait).symm ▸ hengine⟩

/-! ## The frame (R81) -/

/-- The engine drives bit period `q` of the frame of `b` and holds what it needs for the later ones: the data bits still to
send, the stop bit, or nothing. It is released in bit period 10. -/
def DrivesFrame (b : Byte) (q : Nat) (s : State) : Prop :=
  s.txPin = frameBit b q ∧ (s.sendReady = true ↔ 10 ≤ q) ∧
  ((q ≤ 7 ∧ s.txState = .sendData ∧ s.txBits = 8 - q ∧ s.txShift = b >>> q) ∨ (q = 8 ∧ s.txState = .sendStop) ∨
   (q = 9 ∧ s.txState = .finishing) ∨ (10 ≤ q ∧ s.txState = .idle))

theorem frameBit_data (b : Byte) {q : Nat} (h : q ≤ 7) : frameBit b (q + 1) = (b >>> q).extractLsb' 0 1 := by
  rw [frameBit, if_neg (Nat.succ_ne_zero q), if_pos (by omega), Nat.add_sub_cancel]
  ext i
  simp

theorem frameBit_high (b : Byte) {q : Nat} (h : 9 ≤ q) : frameBit b q = 1#1 := by
  rw [frameBit, if_neg (by omega), if_neg (by omega)]

/-- The first advance after `SEND` drives the start bit. -/
theorem drivesFrame_sendBody (b : Byte) (s : State) : DrivesFrame b 0 (txAdvance (sendBody b s)) := by
  have hstart := txAdvance_sendStart (s := sendBody b s) rfl
  rw [hstart]
  exact ⟨rfl, by simp [sendBody, enableChannel], .inl ⟨Nat.zero_le 7, rfl, rfl, by simp [sendBody, enableChannel]⟩⟩

/-- Every advance goes on to the next bit period. -/
theorem drivesFrame_txAdvance {b : Byte} {q : Nat} {s : State} (h : DrivesFrame b q s) :
    DrivesFrame b (q + 1) (txAdvance s) := by
  obtain ⟨hpin, hready, ⟨hq, hs, hbits, hshift⟩ | ⟨rfl, hs⟩ | ⟨rfl, hs⟩ | ⟨hq, hs⟩⟩ := h
  · have hpin' : s.txShift.extractLsb' 0 1 = frameBit b (q + 1) := by rw [hshift, frameBit_data b hq]
    by_cases hmore : 1 < s.txBits
    · rw [txAdvance_sendData_more hs hmore]
      have hshift' : s.txShift >>> 1 = b >>> (q + 1) := by rw [hshift, BitVec.shiftRight_add]
      exact ⟨hpin', by simp only [hready]; omega, .inl ⟨by omega, hs, by simp only; omega, hshift'⟩⟩
    · rw [txAdvance_sendData_last hs (by omega)]
      exact ⟨hpin', by simp only [hready]; omega, .inr (.inl ⟨by omega, rfl⟩)⟩
  · rw [txAdvance_sendStop hs]
    exact ⟨(frameBit_high b (Nat.le_refl 9)).symm, by simp only [hready]; omega, .inr (.inr (.inl ⟨rfl, rfl⟩))⟩
  · rw [txAdvance_finishing hs]
    refine ⟨?_, by simp, .inr (.inr (.inr ⟨Nat.le_refl 10, rfl⟩))⟩
    rw [frameBit_high b (by omega)]
    exact hpin.trans (frameBit_high b (Nat.le_refl 9))
  · rw [txAdvance_idle hs]
    refine ⟨?_, by rw [hready]; omega, .inr (.inr (.inr ⟨by omega, hs⟩))⟩
    rw [hpin, frameBit_high b (by omega), frameBit_high b (by omega)]

theorem drivesFrame_iterate (b : Byte) (s : State) (q : Nat) : DrivesFrame b q (txAdvance^[q + 1] (sendBody b s)) := by
  induction q with
  | zero => exact drivesFrame_sendBody b s
  | succ q ih =>
    rw [Function.iterate_succ_apply']
    exact drivesFrame_txAdvance ih

/-- After `SEND` the engine's first advance is in the very next tick. -/
theorem advanceIn_sendBody {s : State} (h : Running s) (b : Byte) : AdvanceIn 0 (sendBody b s) := by
  obtain ⟨hinv, hi, -⟩ := h
  obtain ⟨-, -, -, -, ⟨-, hcnt, -⟩, -⟩ := InvLive.of_invariant hinv hi
  exact fun _ => ⟨0, Nat.zero_lt_of_lt hcnt, rfl, by simp [sendBody, enableChannel]⟩

theorem running_sendBody {s : State} (h : Running s) (b : Byte) : Running (sendBody b s) := by
  obtain ⟨hinv, hi, hgie⟩ := h
  exact ⟨(invLive_sendBody (InvLive.of_invariant hinv hi) b).invariant, hi, hgie⟩

theorem bitTicks_pos {c : Config} (h : c.valid = true) : 0 < bitTicks c :=
  Nat.mul_pos (one_le_N_of_valid h) (Nat.lt_of_lt_of_le Nat.two_pos (two_le_P_of_valid h))

/-- `m >= 1` ticks after `SEND` the engine has made one advance for each bit period begun. -/
theorem advancesBy_zero_of_pos {c : Config} (hB : 0 < bitTicks c) {m : Nat} (hm : 1 ≤ m) :
    advancesBy c 0 m = (m - 1) / bitTicks c + 1 := by
  have hsum : m + (bitTicks c - 1 - 0) = m - 1 + bitTicks c := by omega
  rw [advancesBy, hsum, Nat.add_div_right _ hB]

theorem advancesBy_zero_zero {c : Config} (hB : 0 < bitTicks c) : advancesBy c 0 0 = 0 :=
  Nat.div_eq_of_lt (by omega)

/-- What R128 and R129 rest on: after `SEND b` and a run with `m` ticks the transmitter is busy if `m = 0`, and drives bit
period `(m - 1) div BIT` of the frame if `m >= 1`. -/
theorem send_then_run {s : State} (b : Byte) (h : Running s) (steps : List Instr)
    (hsteps : ∀ i ∈ steps, isTickOrLine i = true) :
    ∃ t, runAll steps (sendBody b s) = .next t ∧
      (steps.count .tick = 0 → t.sendReady = false) ∧
      (1 ≤ steps.count .tick → t.txPin = frameBit b ((steps.count .tick - 1) / bitTicks s.cfg) ∧
        (t.sendReady = true ↔ 10 ≤ (steps.count .tick - 1) / bitTicks s.cfg)) := by
  have hB : 0 < bitTicks s.cfg := bitTicks_pos h.1.1
  obtain ⟨t, ht, -, hpin, -, -, -, -, hready⟩ :=
    runAll_engine (running_sendBody h b) (advanceIn_sendBody h b) hB steps hsteps
  change _ = (txAdvance^[advancesBy s.cfg 0 _] _).txPin at hpin
  change _ = (txAdvance^[advancesBy s.cfg 0 _] _).sendReady at hready
  refine ⟨t, ht, fun hm => ?_, fun hm => ?_⟩
  · rw [hready, hm, advancesBy_zero_zero hB]
    rfl
  · rw [advancesBy_zero_of_pos hB hm] at hpin hready
    obtain ⟨hpin', hready', -⟩ := drivesFrame_iterate b s ((steps.count .tick - 1) / bitTicks s.cfg)
    exact ⟨hpin.trans hpin', by rw [hready, hready']⟩

/-! ## No abort (R131, R174) -/

/-- A host operation but `INIT` leaves the receiver alone. -/
theorem exec_hostOp_sameReceiver {i : Instr} {s t : State} (hh : isHostOp i = true) (hn : i ≠ .init)
    (h : exec i s = .next t) : SameReceiver s t := by
  by_cases hr : i = .recv
  · rw [exec_receiveHostOp_frame (.inl hr) h]
    simp [SameReceiver]
  · obtain ⟨hframe, -⟩ := exec_hostOp_frame hh hn hr h
    obtain ⟨hrx, -⟩ := setTransmit_same t { s with trace := t.trace }
    rw [← hframe] at hrx
    exact hrx

/-- While the transmitter is busy a host operation but `INIT` waits, or is one that does not use it. -/
theorem exec_hostOp_busy_sameTransmit {i : Instr} {s t : State} (hh : isHostOp i = true) (hn : i ≠ .init)
    (h : exec i s = .next t) (hbusy : s.sendReady = false) : SameTransmit s t := by
  have hready : s.sendReady ≠ true := by simp [hbusy]
  obtain ⟨-, ⟨-, rfl⟩ | ⟨-, done⟩⟩ := exec_hostOp_eq_next hh hn h
  · simp [SameTransmit]
  · obtain ⟨w, rfl⟩ | ⟨r, rfl⟩ | ⟨b, -, hr, -⟩ | ⟨rfl, -⟩ | ⟨d, -, hr, -⟩ | ⟨d, -, hr, -⟩ := done
    · simp [SameTransmit]
    · simp [SameTransmit]
    · exact absurd hr hready
    · rw [exec_receiveHostOp_frame (.inl rfl) h]
      simp [SameTransmit]
    · exact absurd hr hready
    · exact absurd hr hready

/-! ## TxEngine: the obligations -/

/-- Settles O28: the engine makes one advance per bit period begun, and each advance drives the next bit of the frame. -/
theorem transmitWaveform : Obligations.TransmitWaveform := by
  intro s b h hhold hready
  refine ⟨sendBody b s, exec_send_sendReady ⟨⟨h.1.1, h.2.1⟩, hhold⟩ hready b, rfl, fun steps hsteps => ?_⟩
  obtain ⟨t, ht, -, hdriven⟩ := send_then_run b h steps hsteps
  exact ⟨t, ht, fun hm => (hdriven hm).1⟩

/-- Settles O29: the engine is released in bit period 10, which tick `10 * BIT + 1` begins. -/
theorem transmitBusyTime : Obligations.TransmitBusyTime := by
  intro s b h hhold hready
  refine ⟨sendBody b s, exec_send_sendReady ⟨⟨h.1.1, h.2.1⟩, hhold⟩ hready b, fun steps hsteps => ?_⟩
  obtain ⟨t, ht, hnone, hdriven⟩ := send_then_run b h steps hsteps
  refine ⟨t, ht, ?_⟩
  by_cases hm : 1 ≤ steps.count .tick
  · rw [(hdriven hm).2, Nat.le_div_iff_mul_le (bitTicks_pos h.1.1)]
    omega
  · have hzero : steps.count .tick = 0 := by omega
    simp [hnone hzero, hzero]

/-- Settles O30: a busy transmitter makes `SEND`, `ALARM` and `DELAY` wait, and no host operation but `INIT` has a receiver
field to write. -/
theorem onlyInitAborts : Obligations.OnlyInitAborts :=
  fun _ _ _ hh hn h => ⟨exec_hostOp_busy_sameTransmit hh hn h, exec_hostOp_sameReceiver hh hn h⟩

/-- Settles O24: the returned bit is `send_ready`, which item 1 of R49 ties to `Idle`. -/
theorem txrdyReturnsSendReady : Obligations.TxrdyReturnsSendReady := by
  intro s h
  refine ⟨?_, fun hinv => ?_⟩
  · rw [exec_txrdy h]
    cases hr : s.sendReady <;> simp [giveBack, readyBit, hr]
  · obtain ⟨-, -, ⟨hidle, -⟩, -⟩ := InvLive.of_invariant hinv h.1.2
    exact hidle

/-- Settles O25: `SEND`'s body behind its hold. -/
theorem sendQueuesTheByte : Obligations.SendQueuesTheByte := by
  intro s b h
  refine ⟨fun hr => exec_send_sendReady h hr b, fun hr => ?_⟩
  rw [exec_send h, holdUntil_waits hr]

/-- Settles O26: the countdown's two branches, the second with the advance of `Idle`. -/
theorem channelAHandlerCountsDown : Obligations.ChannelAHandlerCountsDown := by
  intro s h
  refine ⟨fun hos => ?_, fun hos hs => ?_⟩
  · rw [exec_isrCmpa h, isrCmpa_countdown hos]
  · rw [exec_isrCmpa_advance h hos, txAdvance_idle (by exact hs)]

/-- Settles O27: the advance of each state, from the state with the countdown reloaded. -/
theorem transmitArms : Obligations.TransmitArms := by
  intro s h hos
  rw [exec_isrCmpa_advance h hos]
  refine ⟨fun hs => ?_, fun hs hb => ?_, fun hs hb => ?_, fun hs => ?_, fun hs => ?_⟩
  · rw [txAdvance_sendStart (by exact hs)]
  · rw [txAdvance_sendData_more (by exact hs) (by exact hb)]
  · rw [txAdvance_sendData_last (by exact hs) (by exact hb)]
  · rw [txAdvance_sendStop (by exact hs)]
  · rw [txAdvance_finishing (by exact hs)]

end Sys2Proof.Machine
end

section
/-! SUPPORT. DelayEngine (42_delay_engine.md): `ALARM` and `DELAY` where they need not wait (R142, R147), the `TimedDelay` arm of
the channel-A handler (R145), and from that the duration law of a delay (R146). -/

namespace Sys2Proof.Machine

/-! ## `ALARM` and `DELAY` (R141, R142, R147) -/

theorem exec_alarm_fits {s : State} (h : Ready s) {d : Word32} (hd : wholePeriods s.cfg d < 2 ^ 32) :
    exec (.alarm d) s = holdUntil s.sendReady (.alarm d) s fun s => .next (alarmBody d s) := by
  rw [exec_alarm h, periodsOrRefuse_fit hd]

theorem exec_delay_fits {s : State} (h : Ready s) {d : Word32} (hd : wholePeriods s.cfg d < 2 ^ 32) :
    exec (.delay d) s =
      holdUntil s.sendReady (.delay d) s fun s => .next { alarmBody d s with hold := some .delayReturn } := by
  rw [exec_delay h, periodsOrRefuse_fit hd]

/-- An `ALARM` that does not have to wait completes with its body (R142). -/
theorem exec_alarm_sendReady {s : State} (h : Ready s) (hr : s.sendReady = true) {d : Word32}
    (hd : wholePeriods s.cfg d < 2 ^ 32) : exec (.alarm d) s = .next (alarmBody d s) := by
  rw [exec_alarm_fits h hd, holdUntil_lifted hr]

@[simp] theorem alarmBody_cfg (d : Word32) (s : State) : (alarmBody d s).cfg = s.cfg := rfl

/-- A period count that is not refused is loaded as it is (R141, R142). -/
theorem alarmBody_delayCounter_toNat {s : State} {d : Word32} (hd : wholePeriods s.cfg d < 2 ^ 32) :
    (alarmBody d s).delayCounter.toNat = wholePeriods s.cfg d :=
  (BitVec.toNat_ofNat _ 32).trans (Nat.mod_eq_of_lt hd)

theorem running_alarmBody {s : State} (h : Running s) (d : Word32) : Running (alarmBody d s) := by
  obtain ⟨hinv, hi, hgie⟩ := h
  exact ⟨(invLive_alarmBody (InvLive.of_invariant hinv hi) d).invariant, hi, hgie⟩

/-! ## The `TimedDelay` arm (R145) -/

/-- With periods left after this one the arm counts it. -/
theorem txAdvance_timedDelay_more {s : State} (h : s.txState = .timedDelay) (hd : 1 < s.delayCounter.toNat) :
    txAdvance s = { s with delayCounter := s.delayCounter - 1#32 } := by
  have hleft : delayCountdown s.delayCounter = s.delayCounter - 1#32 := if_pos (by omega)
  have hne : s.delayCounter - 1#32 ≠ 0#32 := by bv_omega
  simp only [txAdvance, h, txTimedDelay, hleft, if_neg hne]

/-- In the last period, or with none asked for, the arm releases the engine. -/
theorem txAdvance_timedDelay_last {s : State} (h : s.txState = .timedDelay) (hd : s.delayCounter.toNat ≤ 1) :
    txAdvance s = { s with delayCounter := 0#32, sendReady := true, txState := .idle, ieA := false } := by
  have hzero : delayCountdown s.delayCounter = 0#32 := by
    rw [delayCountdown]
    split <;> bv_omega
  simp only [txAdvance, h, txTimedDelay, hzero, if_true, disableChannel]

/-- `n` advances into a delay of `w` bit periods, the line at level `l`: the periods left are counted, or the engine is released,
which takes one advance at least. -/
def InDelay (w : Nat) (l : Bit) (n : Nat) (s : State) : Prop :=
  s.txPin = l ∧
  ((n < max w 1 ∧ s.txState = .timedDelay ∧ s.sendReady = false ∧ s.delayCounter.toNat = w - n) ∨
   (max w 1 ≤ n ∧ s.txState = .idle ∧ s.sendReady = true))

theorem inDelay_alarmBody {s : State} {d : Word32} (hd : wholePeriods s.cfg d < 2 ^ 32) :
    InDelay (wholePeriods s.cfg d) s.txPin 0 (alarmBody d s) :=
  ⟨rfl, .inl ⟨by omega, rfl, rfl, alarmBody_delayCounter_toNat hd⟩⟩

/-- Every advance counts one period more. -/
theorem inDelay_txAdvance {w n : Nat} {l : Bit} {s : State} (h : InDelay w l n s) : InDelay w l (n + 1) (txAdvance s) := by
  obtain ⟨hpin, ⟨hn, hs, hready, hcount⟩ | ⟨hn, hs, hready⟩⟩ := h
  · by_cases hmore : 1 < s.delayCounter.toNat
    · have hleft : (s.delayCounter - 1#32).toNat = w - (n + 1) := by bv_omega
      rw [txAdvance_timedDelay_more hs hmore]
      exact ⟨hpin, .inl ⟨by omega, hs, hready, hleft⟩⟩
    · rw [txAdvance_timedDelay_last hs (Nat.not_lt.1 hmore)]
      exact ⟨hpin, .inr ⟨by omega, rfl, rfl⟩⟩
  · rw [txAdvance_idle hs]
    exact ⟨hpin, .inr ⟨by omega, hs, hready⟩⟩

theorem inDelay_iterate {w : Nat} {l : Bit} {s : State} (h : InDelay w l 0 s) (n : Nat) : InDelay w l n (txAdvance^[n] s) := by
  induction n with
  | zero => exact h
  | succ n ih =>
    rw [Function.iterate_succ_apply']
    exact inDelay_txAdvance ih

theorem InDelay.sendReady_iff {w n : Nat} {l : Bit} {s : State} (h : InDelay w l n s) : s.sendReady = true ↔ max w 1 ≤ n := by
  obtain ⟨-, ⟨hn, -, hready, -⟩ | ⟨hn, -, hready⟩⟩ := h
  · exact iff_of_false (by simp [hready]) (Nat.not_le.2 hn)
  · exact iff_of_true hready hn

/-! ## When the period ends (R146) -/

/-- How many ticks pass before the first advance of `ALARM d`: `t1 - 1` of R146. -/
def alarmWait (c : Config) (d : Word32) : Nat := alarmOffset c d + (alarmCountdown c d - 1) * c.P

/-- The compare value stands the offset ahead of the counter, and the countdown gives the matches before the first advance. -/
theorem advanceIn_alarmBody {s : State} (h : s.cfg.valid = true) (d : Word32) :
    AdvanceIn (alarmWait s.cfg d) (alarmBody d s) :=
  fun _ => ⟨alarmOffset s.cfg d, mod_P_lt h _, rfl, rfl⟩

/-- The first advance comes within one bit period. -/
theorem alarmWait_lt {c : Config} (h : c.valid = true) (d : Word32) : alarmWait c d < bitTicks c := by
  have hoffset : alarmOffset c d < c.P := mod_P_lt h _
  have hperiods : bitTicks c = c.P - 1 + (c.N - 1) * c.P + 1 :=
    periods_eq_succ (Nat.zero_lt_of_lt hoffset) (one_le_N_of_valid h)
  have hcount : (alarmCountdown c d - 1) * c.P ≤ (c.N - 1) * c.P :=
    Nat.mul_le_mul_right _ (Nat.sub_le_sub_right (alarmCountdown_le c d) 1)
  rw [alarmWait]
  omega

/-- `t_end` is the first tick `t1` and a bit period for each advance after the first. -/
theorem delayEnd_eq (c : Config) (d : Word32) :
    delayEnd c d = alarmWait c d + 1 + (max (wholePeriods c d) 1 - 1) * bitTicks c := by
  have hoffset : subMod 0 (remTicks c d) c.P = alarmOffset c d := by rw [subMod, Nat.zero_add, alarmOffset]
  rw [delayEnd, hoffset, alarmWait, alarmCountdown]
  omega

/-- The `k`-th advance is made by tick `m` exactly when `m` reaches the first advance's tick and `k - 1` bit periods more. -/
theorem le_advancesBy_iff {c : Config} {w m k : Nat} (hw : w < bitTicks c) (hk : 1 ≤ k) :
    k ≤ advancesBy c w m ↔ w + 1 + (k - 1) * bitTicks c ≤ m := by
  obtain ⟨k, rfl⟩ := Nat.exists_eq_add_one_of_ne_zero (Nat.one_le_iff_ne_zero.1 hk)
  rw [advancesBy, Nat.le_div_iff_mul_le (Nat.zero_lt_of_lt hw), Nat.succ_mul, Nat.add_sub_cancel]
  omega

/-! ## DelayEngine: the obligations -/

/-- Settles O35: the engine's advances keep a fixed pace, and advance `max(whole, 1)` is the one that releases it. -/
theorem delayBusyTime : Obligations.DelayBusyTime := by
  intro s d h hhold hready hd
  obtain ⟨⟨hv, -⟩, hi, -⟩ := id h
  have hlt : alarmWait s.cfg d < bitTicks s.cfg := alarmWait_lt hv d
  refine ⟨alarmBody d s, exec_alarm_sendReady ⟨⟨hv, hi⟩, hhold⟩ hready hd, fun steps hsteps => ?_⟩
  obtain ⟨t, ht, -, hpinT, -, -, -, -, hreadyT⟩ :=
    runAll_engine (running_alarmBody h d) (advanceIn_alarmBody hv d) hlt steps hsteps
  rw [alarmBody_cfg] at hpinT hreadyT
  have hdelay := inDelay_iterate (inDelay_alarmBody hd) (advancesBy s.cfg (alarmWait s.cfg d) (steps.count .tick))
  obtain ⟨hpin, -⟩ := id hdelay
  refine ⟨t, ht, ?_, hpinT.trans hpin⟩
  calc t.sendReady = true
    _ ↔ max (wholePeriods s.cfg d) 1 ≤ advancesBy s.cfg (alarmWait s.cfg d) (steps.count .tick) := by
      rw [hreadyT, hdelay.sendReady_iff]
    _ ↔ delayEnd s.cfg d ≤ steps.count .tick := by rw [le_advancesBy_iff hlt (Nat.le_max_right _ 1), delayEnd_eq]

/-- Settles O31: the formulas are the model's definitions, and the refusal stands before the hold. -/
theorem millisecondConversion : Obligations.MillisecondConversion := by
  refine ⟨fun _ _ => ⟨rfl, rfl, rfl⟩, by decide, by decide, fun s d h _ hd => ⟨?_, ?_⟩⟩
  · rw [exec_alarm h, periodsOrRefuse_large hd]
  · rw [exec_delay h, periodsOrRefuse_large hd]

/-- Settles O32: `ALARM`'s body behind its hold. -/
theorem alarmStartsThePeriod : Obligations.AlarmStartsThePeriod := by
  intro s d h hd
  refine ⟨fun hr => ⟨_, alarmBody_delayCounter_toNat hd, exec_alarm_sendReady h hr hd⟩, fun hr => ?_⟩
  rw [exec_alarm_fits h hd, holdUntil_waits hr]

/-- Settles O33: `DELAY`'s first step is `ALARM`'s body with the second hold after it, and that hold is one of those O12 is
about. -/
theorem delayIsAlarmThenHold : Obligations.DelayIsAlarmThenHold := by
  refine ⟨fun s d h hd => ⟨fun hr => ⟨alarmBody d s, exec_alarm_sendReady h hr hd, ?_⟩, fun hr => ?_⟩,
    fun s hv hm hl hh hr => liftedHoldPerformsItsBody s .delayReturn hv hm hl hh hr⟩
  · rw [exec_delay_fits h hd, holdUntil_lifted hr]
  · rw [exec_delay_fits h hd, holdUntil_waits hr]

/-- Settles O34: the two ends of the arm, from the state with the countdown reloaded. -/
theorem timedDelayArm : Obligations.TimedDelayArm := by
  intro s h hos hs
  rw [exec_isrCmpa_advance h hos]
  refine ⟨fun hd => ?_, fun hd => ?_⟩
  · rw [txAdvance_timedDelay_more (by exact hs) (by exact hd)]
  · rw [txAdvance_timedDelay_last (by exact hs) (by exact hd)]

end Sys2Proof.Machine
end

section
/-! SUPPORT. RxEngine and EdgeSensor (43_rx_engine.md): `RXLINE`, the edge sensor's handler and the arms of the channel-B handler
(R160 to R167), what ends a frame (R168), when the handler advances the receiver, and from that the laws of a reception (R169 to
R171). -/

namespace Sys2Proof.Machine

/-! ## `RXLINE` and the edge sensor's handler (R160 to R163) -/

theorem setLine_eq (l : Bit) (s : State) :
    setLine l s = { s with rxPin := l, edgeIf := if s.rxPin = 1#1 ∧ l = 0#1 then true else s.edgeIf } := by
  simp [setLine, fallingEdge]

/-- The request is delivered where an edge has just fallen or was latched, and both masks are open (R161). -/
theorem edgeDelivered_setLine_iff (l : Bit) (s : State) :
    edgeDelivered (setLine l s) = true ↔
      ((s.rxPin = 1#1 ∧ l = 0#1) ∨ s.edgeIf = true) ∧ s.edgeIe = true ∧ s.gie = true := by
  by_cases hfall : s.rxPin = 1#1 ∧ l = 0#1 <;> simp [edgeDelivered, delivered, setLine_eq, hfall, and_assoc]

theorem exec_rxline_delivered {s : State} (h : Live s) {l : Bit} (hd : edgeDelivered (setLine l s) = true) :
    exec (.rxline l) s = .next (isrEdge (setLine l s)) := by rw [exec_rxline h, serveEdge_eq, if_pos hd]

theorem exec_rxline_masked {s : State} (h : Live s) {l : Bit} (hd : ¬edgeDelivered (setLine l s) = true) :
    exec (.rxline l) s = .next (setLine l s) := by rw [exec_rxline h, serveEdge_eq, if_neg hd]

/-- A low line: channel B is armed half a bit from now, and the sensor disables itself. -/
theorem isrEdge_low {s : State} (h : s.rxPin = 0#1) :
    isrEdge s =
      { s with
        edgeIf := false, cmpB := (s.cnt + edgeOffset s.cfg) % s.cfg.P, rxOs := edgeCountdown s.cfg, ieB := true
        edgeIe := false, rxState := .armedForStart } := by
  simp only [isrEdge, h, if_true, armChannel, enableChannel, now]

/-- A high line: a spurious edge. -/
theorem isrEdge_high {s : State} (h : s.rxPin = 1#1) :
    isrEdge s = { s with edgeIf := false, trace := s.trace ++ [.raised .spuriousEdge] } := by
  have hne : s.rxPin ≠ 0#1 := by simp [h]
  simp only [isrEdge, hne, if_false, raise]

/-! ## One advance, arm by arm (R164 to R167) -/

/-- R82: the sample comes in at bit 7. -/
theorem shiftIn_getLsbD_top (smp : Bit) (acc : Byte) : (shiftIn smp acc).getLsbD 7 = smp.getLsbD 0 := by
  simp [shiftIn]

/-- R82: the other bits move one place down. -/
theorem shiftIn_getLsbD_lt (smp : Bit) (acc : Byte) {i : Nat} (hi : i < 7) :
    (shiftIn smp acc).getLsbD i = acc.getLsbD (i + 1) := by
  have hi8 : i < 8 := Nat.lt_succ_of_lt hi
  simp [shiftIn, hi, Nat.add_comm]

theorem shiftIn_eq_append (smp : Bit) (acc : Byte) : shiftIn smp acc = smp ++ acc.extractLsb' 1 7 := by
  apply BitVec.eq_of_getLsbD_eq
  intro i hi
  rw [BitVec.getLsbD_append]
  by_cases h7 : i < 7
  · simp [shiftIn_getLsbD_lt smp acc h7, h7, Nat.add_comm]
  · obtain rfl : i = 7 := by omega
    exact shiftIn_getLsbD_top smp acc

theorem isrCmpb_countdown {s : State} (h : 1 < s.rxOs) : isrCmpb s = .next { s with rxOs := s.rxOs - 1 } := by
  rw [isrCmpb, if_pos h]

theorem isrCmpb_advance {s : State} (h : s.rxOs ≤ 1) : isrCmpb s = rxAdvance s.rxPin { s with rxOs := s.cfg.N } := by
  rw [isrCmpb, if_neg (Nat.not_lt.2 h)]

/-- On a live block the handler at the end of its countdown reloads it and advances the receiver (R164). -/
theorem exec_isrCmpb_advance {s : State} (h : Live s) (hos : s.rxOs ≤ 1) :
    exec .isrCmpb s = rxAdvance s.rxPin { s with rxOs := s.cfg.N } := by rw [exec_isrCmpb h, isrCmpb_advance hos]

section
variable {s : State} (smp : Bit)

theorem rxAdvance_idle (h : s.rxState = .idle) : rxAdvance smp s = .next s := by simp only [rxAdvance, h]

theorem rxAdvance_armedForStart (h : s.rxState = .armedForStart) :
    rxAdvance smp s = .next { s with rxBits := 8, rxState := .sampleData } := by simp only [rxAdvance, h, rxArmedForStart]

theorem rxAdvance_sampleData_more (h : s.rxState = .sampleData) (hb : 1 < s.rxBits) :
    rxAdvance smp s = .next { s with rxAcc := shiftIn smp s.rxAcc, rxBits := s.rxBits - 1 } := by
  simp only [rxAdvance, h, rxSampleData]
  rw [if_neg (Nat.sub_ne_zero_of_lt hb)]

theorem rxAdvance_sampleData_last (h : s.rxState = .sampleData) (hb : s.rxBits = 1) :
    rxAdvance smp s = .next { s with rxAcc := shiftIn smp s.rxAcc, rxBits := 0, rxState := .checkStop } := by
  simp only [rxAdvance, h, rxSampleData, hb, Nat.sub_self, if_true]

theorem rxAdvance_checkStop (h : s.rxState = .checkStop) : rxAdvance smp s = rxCheckStop smp s := by
  simp only [rxAdvance, h]

end

/-! ## What ends a frame (R168, R194 to R199) -/

/-- The parameters, the receive buffer and the trace are the same: what the end of a frame reads and writes beside the
receiver's own fields. -/
abbrev SameDelivery (s t : State) : Prop :=
  t.cfg = s.cfg ∧ t.available = s.available ∧ t.recvByte = s.recvByte ∧ t.buf = s.buf ∧ t.head = s.head ∧
  t.tail = s.tail ∧ t.trace = s.trace

theorem SameDelivery.refl (s : State) : SameDelivery s s := ⟨rfl, rfl, rfl, rfl, rfl, rfl, rfl⟩

/-- `Deliver` does what its rule says (R195, R196). -/
theorem delivered_of_deliver {b : Byte} {s t : State} (hw : Memory.wf s.buf) (h : deliver b s = .next t) :
    Delivered b s t := by
  obtain ⟨hv, rfl⟩ | ⟨hv, hfull, rfl⟩ | ⟨hv, hroom, -, rfl⟩ := deliver_eq_next h
  · by_cases ha : s.available = .byte <;> simp [Delivered, hv, deliverSingle, ha, SameMemory]
  · have hfull' : (s.head + 1) % s.cfg.C = s.tail := of_decide_eq_true hfull
    simp [Delivered, hv, hfull', SameMemory]
  · have hroom' : (s.head + 1) % s.cfg.C ≠ s.tail := of_decide_eq_false hroom
    simpa [Delivered, hv, hroom', nextIndex, Memory.read_write_same hw] using
      fun i => Memory.read_write_other hw b

theorem framingErrorRecorded_recordFramingError (s : State) : FramingErrorRecorded s (recordFramingError s) := by
  cases hv : s.cfg.rxVariant <;> simp [FramingErrorRecorded, recordFramingError, hv, SameMemory]

theorem Delivered.congr {b : Byte} {s s' t t' : State} (h : Delivered b s' t') (hs : SameDelivery s s')
    (ht : SameDelivery t t') : Delivered b s t := by
  obtain ⟨hcfg, hav, hbyte, hbuf, hhead, htail, htrace⟩ := hs
  obtain ⟨-, hav', hbyte', hbuf', hhead', htail', htrace'⟩ := ht
  simpa only [Delivered, SameMemory, hcfg, hav, hbyte, hbuf, hhead, htail, htrace, hav', hbyte', hbuf', hhead', htail',
    htrace'] using h

theorem FramingErrorRecorded.congr {s s' t t' : State} (h : FramingErrorRecorded s' t') (hs : SameDelivery s s')
    (ht : SameDelivery t t') : FramingErrorRecorded s t := by
  obtain ⟨hcfg, hav, hbyte, hbuf, hhead, htail, htrace⟩ := hs
  obtain ⟨-, hav', hbyte', hbuf', hhead', htail', htrace'⟩ := ht
  simpa only [FramingErrorRecorded, SameMemory, hcfg, hav, hbyte, hbuf, hhead, htail, htrace, hav', hbyte', hbuf', hhead',
    htail', htrace'] using h

/-- Arm `CheckStop`: a high sample delivers the accumulator, a low one records a framing error, and both release the
receiver. -/
theorem rxCheckStop_ends_frame {smp : Bit} {s t : State} (hw : Memory.wf s.buf) (h : rxCheckStop smp s = .next t) :
    ReceiverIdle t ∧ (smp = 1#1 → Delivered s.rxAcc s t) ∧ (smp = 0#1 → FramingErrorRecorded s t) := by
  obtain ⟨u, hu, ht⟩ := thenDo_eq_next.1 h
  cases ht
  have hsame : SameDelivery (rxRelease u) u := ⟨rfl, rfl, rfl, rfl, rfl, rfl, rfl⟩
  refine ⟨⟨rfl, rfl, rfl, rfl⟩, fun hhigh => ?_, fun hlow => ?_⟩
  · rw [if_pos hhigh] at hu
    exact (delivered_of_deliver hw hu).congr (.refl s) hsame
  · rw [if_neg (by simp [hlow])] at hu
    cases hu
    exact (framingErrorRecorded_recordFramingError s).congr (.refl s) hsame

/-! ## The samples and the byte (R81, R82) -/

/-- The accumulator after `k` data samples, the first of them `sample 1`. -/
def shiftedIn (sample : Nat → Bit) (acc : Byte) : Nat → Byte
  | 0 => acc
  | k + 1 => shiftIn (sample (k + 1)) (shiftedIn sample acc k)

/-- The `k` samples taken so far stand at the top of the accumulator, the first of them lowest. -/
theorem shiftedIn_getLsbD (sample : Nat → Bit) (acc : Byte) {k i : Nat} (hk : k ≤ 8) (hi : i < k) :
    (shiftedIn sample acc k).getLsbD (8 - k + i) = (sample (i + 1)).getLsbD 0 := by
  induction k with
  | zero => exact absurd hi (Nat.not_lt_zero i)
  | succ k ih =>
    rw [shiftedIn]
    by_cases hlast : i = k
    · have htop : 8 - (k + 1) + i = 7 := by omega
      rw [htop, shiftIn_getLsbD_top, hlast]
    · have hmove : 8 - (k + 1) + i + 1 = 8 - k + i := by omega
      rw [shiftIn_getLsbD_lt _ _ (by omega), hmove, ih (by omega) (by omega)]

/-- R82: eight samples at the levels of the data bits of `b` make `b`, whatever the accumulator held. -/
theorem shiftedIn_frame {sample : Nat → Bit} {b : Byte} (h : ∀ j, 1 ≤ j → j ≤ 8 → sample j = frameBit b j) (acc : Byte) :
    shiftedIn sample acc 8 = b := by
  apply BitVec.eq_of_getLsbD_eq
  intro i hi
  have hbit := shiftedIn_getLsbD sample acc (Nat.le_refl 8) hi
  rw [Nat.sub_self, Nat.zero_add, h (i + 1) (by omega) (by omega), frameBit_data b (by omega)] at hbit
  rw [hbit]
  simp

/-- Advance `j` of the frame is the next to come: the start bit's, a data bit's or the stop bit's. The accumulator holds the data
samples taken so far. -/
def AwaitsAdvance (sample : Nat → Bit) (acc : Byte) (j : Nat) (s : State) : Prop :=
  s.rxAcc = shiftedIn sample acc (j - 1) ∧
  ((j = 0 ∧ s.rxState = .armedForStart) ∨ (1 ≤ j ∧ j ≤ 8 ∧ s.rxState = .sampleData ∧ s.rxBits = 9 - j) ∨
   (j = 9 ∧ s.rxState = .checkStop))

theorem AwaitsAdvance.busy {sample : Nat → Bit} {acc : Byte} {j : Nat} {s : State} (h : AwaitsAdvance sample acc j s) :
    s.rxState ≠ .idle := by
  obtain ⟨-, ⟨-, hs⟩ | ⟨-, -, hs, -⟩ | ⟨-, hs⟩⟩ := h <;> simp [hs]

theorem AwaitsAdvance.le {sample : Nat → Bit} {acc : Byte} {j : Nat} {s : State} (h : AwaitsAdvance sample acc j s) :
    j ≤ 9 := by
  obtain ⟨-, ⟨hj, -⟩ | ⟨-, hj, -⟩ | ⟨hj, -⟩⟩ := h <;> omega

/-- An advance before the stop bit's takes its sample and goes on to the next; it writes three fields of the receiver. -/
theorem AwaitsAdvance.advance {sample : Nat → Bit} {acc : Byte} {j : Nat} {s : State} (h : AwaitsAdvance sample acc j s)
    (hj : j < 9) : ∃ st bits acc', rxAdvance (sample j) s = .next { s with rxState := st, rxBits := bits, rxAcc := acc' } ∧
      AwaitsAdvance sample acc (j + 1) { s with rxState := st, rxBits := bits, rxAcc := acc' } := by
  obtain ⟨hacc, ⟨rfl, hs⟩ | ⟨h1, h8, hs, hbits⟩ | ⟨rfl, -⟩⟩ := h
  · exact ⟨_, _, _, rxAdvance_armedForStart _ hs, hacc, .inr (.inl ⟨Nat.le_refl 1, by omega, rfl, rfl⟩)⟩
  · have hacc' : shiftIn (sample j) s.rxAcc = shiftedIn sample acc j := by
      obtain ⟨k, rfl⟩ := Nat.exists_eq_add_one_of_ne_zero (Nat.one_le_iff_ne_zero.1 h1)
      rw [hacc]
      rfl
    by_cases hlast : j = 8
    · subst hlast
      exact ⟨_, _, _, rxAdvance_sampleData_last _ hs hbits, hacc', .inr (.inr ⟨rfl, rfl⟩)⟩
    · exact ⟨_, _, _, rxAdvance_sampleData_more _ hs (by omega), hacc',
        .inr (.inl ⟨by omega, by omega, hs, by simp only; omega⟩)⟩
  · exact absurd hj (Nat.lt_irrefl 9)

/-! ## When the receiver advances (R105, R107, R164) -/

/-- Channel B's next match is `d` ticks away and each further match of the countdown a period more: the tick that advances the
receiver comes after `w` others. -/
def ReceiverAdvancesIn (w : Nat) (s : State) : Prop :=
  ∃ d, d < s.cfg.P ∧ s.cmpB = (s.cnt + d) % s.cfg.P ∧ w = d + (s.rxOs - 1) * s.cfg.P

/-- A busy receiver's request is delivered in the tick of the next match. -/
theorem fires_B_of_busy {s : State} {d : Nat} (h : Running s) (hbusy : s.rxState ≠ .idle) (hd : d < s.cfg.P)
    (hcmp : s.cmpB = (s.cnt + d) % s.cfg.P) : fires .B s = true ↔ d = 0 := by
  obtain ⟨hinv, hi, hgie⟩ := h
  obtain ⟨-, -, -, hrx, ⟨-, hcnt, -⟩, -⟩ := InvLive.of_invariant hinv hi
  obtain ⟨-, hie⟩ := edgeIe_ieB_of_busy hrx hbusy
  -- `fires` treats the channels alike: channel A with B's compare value and enable.
  exact fires_A_iff_wait_over (s := { s with cmpA := s.cmpB, ieA := s.ieB }) hcnt hd hcmp hie hgie

/-- A busy receiver advances in the tick in which no tick is left to wait. -/
theorem ReceiverAdvancesIn.advances_iff {w : Nat} {s : State} (hw : ReceiverAdvancesIn w s) (h : Running s)
    (hbusy : s.rxState ≠ .idle) : fires .B s = true ∧ s.rxOs ≤ 1 ↔ w = 0 := by
  obtain ⟨d, hd, hcmp, rfl⟩ := hw
  rw [fires_B_of_busy h hbusy hd hcmp, Nat.add_eq_zero_iff, Nat.mul_eq_zero, or_iff_left (by omega), Nat.sub_eq_zero_iff_le]

/-- On the receive side `TICK` runs the channel-B handler, if its request is delivered, and does nothing else. -/
theorem tickBody_eq_next_receive {s t : State} (h : tickBody s = .next t) :
    ∃ x v, t = setTransmit x v ∧
      ((fires .B s = false ∧ v = countUp s) ∨ (fires .B s = true ∧ isrCmpb (countUp s) = .next v)) := by
  obtain ⟨u, hu, ht⟩ := tickBody_eq_next h
  have hux : u = setTransmit u (countUp s) := by
    obtain ⟨-, rfl⟩ | ⟨-, rfl⟩ := hu
    · rfl
    · rw [isrCmpa_frame]
      rfl
  refine ⟨u, ?_⟩
  obtain ⟨hB, rfl⟩ | ⟨hB, hb⟩ := ht
  · exact ⟨_, hux, .inl ⟨hB, rfl⟩⟩
  · rw [hux, ignores_isrCmpb] at hb
    obtain ⟨v, hv, hvt⟩ := thenDo_eq_next.1 hb
    cases hvt
    exact ⟨v, rfl, .inr ⟨hB, hv⟩⟩

/-- After a tick in which channel B matched, its next match is one period from the last. -/
theorem receiverAdvancesIn_of_match {s t : State} (hcnt : s.cnt < s.cfg.P) (hmatch : s.cmpB = s.cnt) (hcfgT : t.cfg = s.cfg)
    (hcntT : t.cnt = (s.cnt + 1) % s.cfg.P) (hcmpT : t.cmpB = s.cmpB) :
    ReceiverAdvancesIn (s.cfg.P - 1 + (t.rxOs - 1) * s.cfg.P) t := by
  refine ⟨s.cfg.P - 1, ?_, ?_, ?_⟩
  · rw [hcfgT]
    exact Nat.sub_one_lt_of_lt hcnt
  · rw [hcmpT, hmatch, hcntT, hcfgT]
    exact match_recurs hcnt
  · rw [hcfgT]

/-- One tick of a busy receiver: the wait gets shorter by one, and of the receiver's fields only the countdown may change; or it
is over and the receiver advances. -/
theorem receiverAdvancesIn_tick {s t : State} {w : Nat} (h : Running s) (hbusy : s.rxState ≠ .idle)
    (hw : ReceiverAdvancesIn w s) (ht : exec .tick s = .next t) :
    (∃ w' x k, w = w' + 1 ∧ t = setTransmit x { countUp s with rxOs := k } ∧ ReceiverAdvancesIn w' t) ∨
    (w = 0 ∧ s.cmpB = s.cnt ∧ ∃ x v, t = setTransmit x v ∧
      rxAdvance s.rxPin { countUp s with rxOs := s.cfg.N } = .next v) := by
  obtain ⟨hinv, hi, -⟩ := id h
  obtain ⟨hv, -, -, -, ⟨htop, hcnt, -⟩, -⟩ := InvLive.of_invariant hinv hi
  obtain ⟨x, v, rfl, hB⟩ := tickBody_eq_next_receive (exec_tick ⟨hv, hi⟩ ▸ ht)
  have hcntU : (countUp s).cnt = (s.cnt + 1) % s.cfg.P := by rw [countUp_cnt, htop]
  obtain ⟨d, hd, hcmp, rfl⟩ := hw
  have hfire := fires_B_of_busy h hbusy hd hcmp
  cases d with
  | succ d =>
    obtain ⟨-, rfl⟩ | ⟨hB, -⟩ := hB
    · refine .inl ⟨d + (s.rxOs - 1) * s.cfg.P, x, s.rxOs, by omega, rfl, d, Nat.lt_of_succ_lt hd, ?_, rfl⟩
      change s.cmpB = ((countUp s).cnt + d) % s.cfg.P
      rw [hcmp, hcntU, Nat.mod_add_mod, Nat.add_assoc, Nat.add_comm 1]
    · exact absurd (hfire.1 hB) (Nat.succ_ne_zero d)
  | zero =>
    rw [Nat.add_zero, Nat.mod_eq_of_lt hcnt] at hcmp
    obtain ⟨hB, -⟩ | ⟨-, hb⟩ := hB
    · exact absurd (hfire.2 rfl) (by simp [hB])
    · by_cases hlast : s.rxOs ≤ 1
      · rw [isrCmpb_advance (s := countUp s) hlast] at hb
        exact .inr ⟨by rw [Nat.sub_eq_zero_of_le hlast, Nat.zero_mul], hcmp, x, v, rfl, hb⟩
      · rw [isrCmpb_countdown (s := countUp s) (Nat.not_le.1 hlast)] at hb
        cases hb
        refine .inl ⟨_, x, _, ?_, rfl, receiverAdvancesIn_of_match hcnt hcmp rfl hcntU rfl⟩
        rw [Nat.zero_add, periods_eq_succ hd (by omega)]
        rfl

/-! ## A frame in progress -/

/-- The level of the line in the tick of advance `j` (R169). -/
def sampleAt (c : Config) (line : Nat → Bit) (j : Nat) : Bit := line (halfBit c + 1 + j * bitTicks c)

/-- `m` ticks into the frame whose start edge `s` accepts: advance `j` comes after `w` ticks more, at the tick R169 gives it, and
nothing has been delivered or raised. -/
def InFrame (s : State) (line : Nat → Bit) (m : Nat) (t : State) : Prop :=
  Running t ∧ SameDelivery s t ∧ ∃ j w, w < bitTicks s.cfg ∧ m + w = halfBit s.cfg + j * bitTicks s.cfg ∧
    AwaitsAdvance (sampleAt s.cfg line) s.rxAcc j t ∧ ReceiverAdvancesIn w t

theorem halfBit_lt {c : Config} (h : c.valid = true) : halfBit c < bitTicks c :=
  Nat.div_lt_self (bitTicks_pos h) (Nat.lt_succ_self 1)

/-- Offsets below one bit period tell the multiples of the bit period apart. -/
theorem eq_of_mul_add_eq_mul {B w j k : Nat} (hw : w < B) (h : k * B + w = j * B) : w = 0 ∧ j = k := by
  have hzero : w = 0 := by
    have hmod := congrArg (· % B) h
    simpa [Nat.mul_add_mod', Nat.mod_eq_of_lt hw] using hmod
  subst hzero
  exact ⟨rfl, Nat.eq_of_mul_eq_mul_right hw h.symm⟩

/-- The accepted start edge begins a frame, its first advance half a bit away. -/
theorem inFrame_start {s : State} (line : Nat → Bit) (h : Running s) (hidle : s.rxState = .idle) (hpin : s.rxPin = 1#1) :
    ∃ u, exec (.rxline 0#1) s = .next u ∧ u.rxState = .armedForStart ∧ InFrame s line 0 u := by
  obtain ⟨hinv, hi, hgie⟩ := h
  obtain ⟨hv, -, -, ⟨hedge, -⟩, -⟩ := InvLive.of_invariant hinv hi
  have hd : edgeDelivered (setLine 0#1 s) = true :=
    (edgeDelivered_setLine_iff 0#1 s).2 ⟨.inl ⟨hpin, rfl⟩, hedge.1 hidle, hgie⟩
  have hu := exec_rxline_delivered ⟨hv, hi⟩ hd
  rw [isrEdge_low rfl] at hu
  have hwait : halfBit s.cfg = edgeOffset s.cfg + (edgeCountdown s.cfg - 1) * s.cfg.P := (Nat.mod_add_div' _ _).symm
  exact ⟨_, hu, rfl, ⟨invariant_exec hinv hu, hi, hgie⟩, ⟨rfl, rfl, rfl, rfl, rfl, rfl, rfl⟩, 0, halfBit s.cfg,
    halfBit_lt hv, by omega, ⟨rfl, .inl ⟨rfl, rfl⟩⟩, edgeOffset s.cfg, mod_P_lt hv _, rfl, hwait⟩

/-- R172: in a frame the sensor is off, and the line's moves change its level and the latch only. -/
theorem inFrame_rxline {s t : State} {line : Nat → Bit} {m : Nat} (l : Bit) (h : InFrame s line m t) :
    exec (.rxline l) t = .next (setLine l t) ∧ InFrame s line m (setLine l t) := by
  obtain ⟨⟨hinv, hi, hgie⟩, hsame, j, w, hw, hmw, hawait, hdue⟩ := h
  obtain ⟨hv, -, -, hrx, -⟩ := InvLive.of_invariant hinv hi
  obtain ⟨hedge, -⟩ := edgeIe_ieB_of_busy hrx hawait.busy
  have hu : exec (.rxline l) t = .next (setLine l t) :=
    exec_rxline_masked ⟨hv, hi⟩ (by simp [edgeDelivered_setLine_iff, hedge])
  exact ⟨hu, ⟨invariant_exec hinv hu, hi, hgie⟩, hsame, j, w, hw, hmw, hawait, hdue⟩

/-- A tick before the stop bit's goes on with the frame. -/
theorem inFrame_tick {s t : State} {line : Nat → Bit} {m : Nat} (h : InFrame s line m t)
    (hm : m < halfBit s.cfg + 9 * bitTicks s.cfg) (hpin : t.rxPin = line (m + 1)) :
    ∃ u, exec .tick t = .next u ∧ InFrame s line (m + 1) u := by
  obtain ⟨hrun, hsame, j, w, hw, hmw, hawait, hdue⟩ := h
  obtain ⟨hinv, hi, hgie⟩ := id hrun
  obtain ⟨hv, -, -, -, ⟨htop, hcnt, -⟩, -⟩ := InvLive.of_invariant hinv hi
  obtain ⟨u, hu, hinvU, -, -, -, -, ⟨-, hgieU, hiU⟩, -⟩ := exec_tick_completes hinv hi
  refine ⟨u, hu, ⟨hinvU, hiU.trans hi, hgieU.trans hgie⟩, ?_⟩
  obtain ⟨w', x, k, rfl, rfl, hdueU⟩ | ⟨rfl, hmatch, x, v, rfl, hadv⟩ :=
    receiverAdvancesIn_tick hrun hawait.busy hdue hu
  · exact ⟨hsame, j, w', Nat.lt_of_succ_lt hw, by omega, hawait, hdueU⟩
  · obtain rfl : m = halfBit s.cfg + j * bitTicks s.cfg := hmw
    have hj : j < 9 := Nat.lt_of_mul_lt_mul_right (Nat.lt_of_add_lt_add_left hm)
    have hsample : t.rxPin = sampleAt s.cfg line j := by rw [hpin, sampleAt, Nat.add_right_comm]
    obtain ⟨st, bits, acc, hnext, hawaitU⟩ := AwaitsAdvance.advance (s := { countUp t with rxOs := t.cfg.N }) hawait hj
    rw [hsample, hnext] at hadv
    cases hadv
    have hcntU : (countUp t).cnt = (t.cnt + 1) % t.cfg.P := by rw [countUp_cnt, htop]
    have hbit : t.cfg.P - 1 + (t.cfg.N - 1) * t.cfg.P = bitTicks s.cfg - 1 := by
      obtain ⟨hcfg, -⟩ := hsame
      rw [← hcfg, bitTicks, periods_eq_succ (Nat.zero_lt_of_lt hcnt) (one_le_N_of_valid hv), Nat.add_sub_cancel]
    refine ⟨hsame, j + 1, bitTicks s.cfg - 1, by omega, ?_, hawaitU, ?_⟩
    · rw [Nat.succ_mul]
      omega
    · exact hbit ▸ receiverAdvancesIn_of_match hcnt hmatch rfl hcntU rfl

/-- Whatever the line does, the frame goes on up to the stop bit's tick. -/
theorem driveLine_inFrame {s u : State} {line : Nat → Bit} (h : InFrame s line 0 u) {n : Nat}
    (hn : n ≤ halfBit s.cfg + 9 * bitTicks s.cfg) : ∃ t, driveLine line n u = .next t ∧ InFrame s line n t := by
  induction n with
  | zero => exact ⟨u, rfl, h⟩
  | succ n ih =>
    obtain ⟨t, ht, hframe⟩ := ih (Nat.le_of_succ_le hn)
    obtain ⟨hline, hframeL⟩ := inFrame_rxline (line (n + 1)) hframe
    obtain ⟨v, hv, hframeV⟩ := inFrame_tick hframeL hn rfl
    exact ⟨v, by rw [driveLine, ht, thenDo_next, hline, thenDo_next, hv], hframeV⟩

/-- The receiver advances in the next tick exactly when that is one of the ten ticks of R169. -/
theorem InFrame.advances_iff {s t : State} {line : Nat → Bit} {m : Nat} (h : InFrame s line m t) :
    fires .B t = true ∧ t.rxOs ≤ 1 ↔ ∃ j, j ≤ 9 ∧ m + 1 = halfBit s.cfg + 1 + j * bitTicks s.cfg := by
  obtain ⟨hrun, -, j, w, hw, hmw, hawait, hdue⟩ := h
  rw [hdue.advances_iff hrun hawait.busy]
  constructor
  · rintro rfl
    exact ⟨j, hawait.le, by omega⟩
  · rintro ⟨k, -, hk⟩
    obtain ⟨hzero, -⟩ := eq_of_mul_add_eq_mul (j := j) (k := k) hw (by omega)
    exact hzero

/-- The stop bit's tick ends the frame as its sample says, and releases the receiver. -/
theorem inFrame_last_tick {s t : State} {line : Nat → Bit} (h : InFrame s line (halfBit s.cfg + 9 * bitTicks s.cfg) t) :
    ∃ u, exec .tick t = .next u ∧ ReceiverIdle u ∧
      (t.rxPin = 1#1 → Delivered (shiftedIn (sampleAt s.cfg line) s.rxAcc 8) s u) ∧
      (t.rxPin = 0#1 → FramingErrorRecorded s u) := by
  obtain ⟨hrun, hsame, j, w, hw, hmw, hawait, hdue⟩ := h
  obtain ⟨rfl, rfl⟩ := eq_of_mul_add_eq_mul (j := j) (k := 9) hw (by omega)
  obtain ⟨hinv, hi, -⟩ := id hrun
  obtain ⟨-, hmem, -⟩ := id hinv
  obtain ⟨u, hu, -⟩ := exec_tick_completes hinv hi
  refine ⟨u, hu, ?_⟩
  obtain ⟨w', -, -, hw', -⟩ | ⟨-, -, x, v, rfl, hadv⟩ := receiverAdvancesIn_tick hrun hawait.busy hdue hu
  · exact absurd hw' (Nat.succ_ne_zero w').symm
  · obtain ⟨hacc, ⟨h0, -⟩ | ⟨-, h8, -⟩ | ⟨-, hs⟩⟩ := hawait
    · omega
    · omega
    · rw [rxAdvance_checkStop _ (by exact hs)] at hadv
      obtain ⟨hidle, hhigh, hlow⟩ := rxCheckStop_ends_frame (by exact hmem) hadv
      have hdone : SameDelivery (setTransmit x v) v := ⟨rfl, rfl, rfl, rfl, rfl, rfl, rfl⟩
      exact ⟨hidle, fun hp => (hacc ▸ hhigh hp).congr hsame hdone, fun hp => (hlow hp).congr hsame hdone⟩

/-- What R170 and R171 rest on: an accepted start edge is followed by a whole frame, which the line's level in the stop bit's tick
ends. -/
theorem receive_frame {s : State} (line : Nat → Bit) (h : Running s) (hidle : s.rxState = .idle) (hpin : s.rxPin = 1#1) :
    ∃ u t, exec (.rxline 0#1) s = .next u ∧ driveLine line (halfBit s.cfg + 1 + 9 * bitTicks s.cfg) u = .next t ∧
      ReceiverIdle t ∧
      (sampleAt s.cfg line 9 = 1#1 → Delivered (shiftedIn (sampleAt s.cfg line) s.rxAcc 8) s t) ∧
      (sampleAt s.cfg line 9 = 0#1 → FramingErrorRecorded s t) := by
  obtain ⟨u, hu, -, hstart⟩ := inFrame_start line h hidle hpin
  obtain ⟨v, hv, hframe⟩ := driveLine_inFrame hstart (Nat.le_refl _)
  obtain ⟨hline, hframeL⟩ := inFrame_rxline (sampleAt s.cfg line 9) hframe
  obtain ⟨t, ht, hend⟩ := inFrame_last_tick hframeL
  refine ⟨u, t, hu, ?_, hend⟩
  rw [sampleAt] at hline ht
  rw [Nat.add_right_comm] at hline ht ⊢
  rw [driveLine, hv, thenDo_next, hline, thenDo_next, ht]

/-! ## RxEngine: the obligations -/

/-- Settles O41: an idle receiver accepts the edge, and in the frame that follows the ticks left to wait are those to the tick
R169 gives the next advance. -/
theorem samplingInstants : Obligations.SamplingInstants := by
  intro s line h hidle hpin
  obtain ⟨u, hu, harmed, hstart⟩ := inFrame_start line h hidle hpin
  refine ⟨u, hu, harmed, fun n hn => ?_⟩
  obtain ⟨t, ht, hframe⟩ := driveLine_inFrame hstart (n := n) (by omega)
  exact ⟨t, ht, hframe.advances_iff⟩

/-- Settles O42: the eight data samples make `b`, and the stop bit's sample is high. -/
theorem receptionDeliversTheByte : Obligations.ReceptionDeliversTheByte := by
  intro s b line h hidle hpin hline
  obtain ⟨u, t, hu, ht, hreleased, hhigh, -⟩ := receive_frame line h hidle hpin
  have hbyte : shiftedIn (sampleAt s.cfg line) s.rxAcc 8 = b :=
    shiftedIn_frame (fun j h1 h8 => hline j h1 (Nat.le_succ_of_le h8)) s.rxAcc
  have hstop : sampleAt s.cfg line 9 = 1#1 := (hline 9 (by omega) (Nat.le_refl 9)).trans (frameBit_high b (Nat.le_refl 9))
  exact ⟨u, t, hu, ht, hbyte ▸ hhigh hstop, hreleased⟩

/-- Settles O43: the stop bit's sample is low. -/
theorem lowStopBitOnTheLine : Obligations.LowStopBitOnTheLine := by
  intro s line h hidle hpin hlow
  obtain ⟨u, t, hu, ht, hreleased, -, herror⟩ := receive_frame line h hidle hpin
  exact ⟨u, t, hu, ht, herror hlow, hreleased⟩

/-- Settles O36: the state with the line's new level and the latch, and the handler run from it where the request is delivered. -/
theorem rxlineLatchesTheEdge : Obligations.RxlineLatchesTheEdge := by
  intro s l h
  refine ⟨fun hlatched hedge hgie => ?_, fun hmasked => ?_⟩
  · rw [exec_rxline_delivered h ((edgeDelivered_setLine_iff l s).2 ⟨hlatched, hedge, hgie⟩), ← exec_isrEdge (by exact h),
      setLine_eq]
  · rw [exec_rxline_masked h (mt (edgeDelivered_setLine_iff l s).1 hmasked), setLine_eq]

/-- Settles O37: the handler's two branches. -/
theorem edgeHandlerArmsTheReceiver : Obligations.EdgeHandlerArmsTheReceiver := by
  intro s h
  refine ⟨fun hlow => ?_, fun hhigh => ?_⟩
  · rw [exec_isrEdge h, isrEdge_low hlow]
    rfl
  · rw [exec_isrEdge h, isrEdge_high hhigh]

/-- Settles O38: the countdown, and the advance of each state from the state with the countdown reloaded. -/
theorem receiveArms : Obligations.ReceiveArms := by
  intro s h
  simp only [← shiftIn_eq_append]
  refine ⟨fun hos => ?_, fun hos hs => ?_, fun hos hs => ?_, fun hos hs hb => ?_, fun hos hs hb => ?_⟩
  · rw [exec_isrCmpb h, isrCmpb_countdown hos]
  · rw [exec_isrCmpb_advance h hos, rxAdvance_idle _ (by exact hs)]
  · rw [exec_isrCmpb_advance h hos, rxAdvance_armedForStart _ (by exact hs)]
  · rw [exec_isrCmpb_advance h hos, rxAdvance_sampleData_more _ (by exact hs) (by exact hb)]
  · rw [exec_isrCmpb_advance h hos, rxAdvance_sampleData_last _ (by exact hs) (by exact hb)]

end Sys2Proof.Machine
end

section
/-! SUPPORT. ReceiveQueue (44_receive_queue.md): what `AVAIL` and `RECV` answer (R190 to R193), what the stop bit delivers or
records (R194 to R199), the ring as a list of its unread bytes, and from that the ring laws (R197). -/

namespace Sys2Proof.Machine

/-! ## `AVAIL` and `RECV` (R190 to R193) -/

theorem C_le_256_of_valid {c : Config} (h : c.valid = true) (hv : c.rxVariant = .ring) : c.C ≤ 256 :=
  let ⟨_, _, _, _, _, hC⟩ := (config_valid_iff c).1 h
  (hC hv).2

theorem unreadCount_lt {c : Config} (h : 0 < c.C) (head tail : Nat) : unreadCount c head tail < c.C := Nat.mod_lt _ h

theorem availValue_single {s : State} (hr : s.cfg.rxVariant = .single) :
    availValue s = BitVec.ofNat 8 s.available.code := by simp only [availValue, hr]

/-- The count fits the 8 bits it is returned in, as `C <= 256` (R191). -/
theorem availValue_toNat {s : State} (hv : s.cfg.valid = true) (hr : s.cfg.rxVariant = .ring) :
    (availValue s).toNat = unreadCount s.cfg s.head s.tail := by
  have hC : 0 < s.cfg.C := Nat.lt_of_lt_of_le Nat.two_pos (two_le_C_of_valid hv hr)
  have hfits : unreadCount s.cfg s.head s.tail < 2 ^ 8 :=
    Nat.lt_of_lt_of_le (unreadCount_lt hC _ _) (C_le_256_of_valid hv hr)
  simp only [availValue, hr, BitVec.toNat_ofNat, Nat.mod_eq_of_lt hfits]

/-- `AVAIL` hands its value back and changes nothing else (R190, R191). -/
theorem exec_avail_returns {s : State} {v : Byte} (h : Ready s) (hv : availValue s = v) :
    exec .avail s = .next { s with trace := s.trace ++ [.returned (.count v)] } := by
  rw [exec_avail h, giveBack, hv]

theorem byteWaiting_single {s : State} (hr : s.cfg.rxVariant = .single) : byteWaiting s = decide (s.available = .byte) := by
  simp only [byteWaiting, hr]

theorem byteWaiting_ring {s : State} (hr : s.cfg.rxVariant = .ring) : byteWaiting s = !decide (s.head = s.tail) := by
  simp only [byteWaiting, hr, ringEmpty]

theorem exec_recv_waits {s : State} (h : Ready s) (hw : byteWaiting s = false) :
    exec .recv s = .next { s with hold := some .recv } := by rw [exec_recv h, holdUntil_waits hw]

/-- `RECV` on the `Single` variant's byte (R192). -/
theorem exec_recv_single {s : State} (h : Ready s) (hr : s.cfg.rxVariant = .single) (ha : s.available = .byte) :
    exec .recv s = .next
      { s with available := .none, trace := s.trace ++ [.returned (.byte s.recvByte)] } := by
  have hw : byteWaiting s = true := by simp [byteWaiting_single hr, ha]
  simp only [exec_recv h, holdUntil_lifted hw, recvBody, hr, giveBack]

/-- `RECV` on a ring that is not empty (R193). -/
theorem exec_recv_ring {s : State} (h : Ready s) (hr : s.cfg.rxVariant = .ring) (hne : s.head ≠ s.tail)
    (ht : s.tail < s.cfg.C) : exec .recv s = .next
      { s with
        tail := (s.tail + 1) % s.cfg.C, trace := s.trace ++ [.returned (.byte (Memory.read s.buf s.tail))] } := by
  have hw : byteWaiting s = true := by simp [byteWaiting_ring hr, hne]
  simp only [exec_recv h, holdUntil_lifted hw, recvBody, hr, memRead_lt ht, giveBack, nextIndex]

theorem exec_recv_ring_empty {s : State} (h : Ready s) (hr : s.cfg.rxVariant = .ring) (he : s.head = s.tail) :
    exec .recv s = .next { s with hold := some .recv } :=
  exec_recv_waits h (by simp [byteWaiting_ring hr, he])

/-! ## The stop bit (R168) -/

/-- What the stop bit's advance does beside the receive buffer and the release: the countdown is reloaded, and the rest of the
receiver, the transmitter, the clock, the platform and the inputs are as before. -/
abbrev StopBitFrame (s t : State) : Prop :=
  t.rxOs = s.cfg.N ∧ t.rxAcc = s.rxAcc ∧ t.rxBits = s.rxBits ∧ t.cmpB = s.cmpB ∧ t.rxPin = s.rxPin ∧
  SameTransmit s t ∧ SameClock s t ∧ SamePlatform s t ∧ SameInputs s t

/-- Arm `CheckStop` writes the release's four fields, the receive buffer's producer side and the trace only. -/
theorem rxCheckStop_frame {smp : Bit} {s t : State} (h : rxCheckStop smp s = .next t) :
    t = { s with
      ieB := t.ieB, edgeIe := t.edgeIe, edgeIf := t.edgeIf, rxState := t.rxState, available := t.available
      recvByte := t.recvByte, buf := t.buf, head := t.head, trace := t.trace } := by
  obtain ⟨u, hu, ht⟩ := thenDo_eq_next.1 h
  cases ht
  split at hu
  · rw [deliver_frame hu]
    rfl
  · cases hu
    rw [recordFramingError_frame]
    rfl

/-- On a live block the handler at the stop bit is arm `CheckStop`, from the state with the countdown reloaded. -/
theorem exec_isrCmpb_checkStop {s : State} (h : Live s) (hos : s.rxOs ≤ 1) (hs : s.rxState = .checkStop) :
    exec .isrCmpb s = rxCheckStop s.rxPin { s with rxOs := s.cfg.N } := by
  rw [exec_isrCmpb_advance h hos, rxAdvance_checkStop _ (by exact hs)]

theorem stopBitFrame_of_rxCheckStop {smp : Bit} {s t : State} (h : rxCheckStop smp { s with rxOs := s.cfg.N } = .next t) :
    StopBitFrame s t := by
  rw [rxCheckStop_frame h]
  simp [StopBitFrame, SameTransmit, SameClock, SamePlatform, SameInputs]

theorem rxCheckStop_low {smp : Bit} (h : smp = 0#1) (s : State) :
    rxCheckStop smp s = .next (rxRelease (recordFramingError s)) := by
  rw [rxCheckStop, if_neg (by simp [h]), thenDo_next]

/-- Under R49 a high stop bit always delivers: the ring is written at `head`, which is in range. -/
theorem exec_isrCmpb_delivers {s : State} (h : Invariant s) (hi : s.initialized = true) (hos : s.rxOs ≤ 1)
    (hs : s.rxState = .checkStop) (hpin : s.rxPin = 1#1) :
    ∃ t, exec .isrCmpb s = .next t ∧ Delivered s.rxAcc s t ∧ ReceiverIdle t ∧ StopBitFrame s t := by
  obtain ⟨hv, hw, -⟩ := id h
  obtain ⟨t, ht⟩ := exec_event_completes (i := .isrCmpb) rfl h
  have hstop := exec_isrCmpb_checkStop ⟨hv, hi⟩ hos hs ▸ ht
  obtain ⟨hidle, hhigh, -⟩ := rxCheckStop_ends_frame (by exact hw) hstop
  have hsame : SameDelivery s { s with rxOs := s.cfg.N } := .refl s
  exact ⟨t, ht, (hhigh hpin).congr hsame (.refl t), hidle, stopBitFrame_of_rxCheckStop hstop⟩

/-! ## The ring's indices and its count (R191, R193, R196) -/

section
variable {c : Config} {head tail : Nat} (hh : head < c.C) (ht : tail < c.C)
include hh ht

/-- The unread bytes end where `head` stands. -/
theorem tail_add_unreadCount : (tail + unreadCount c head tail) % c.C = head := by
  rw [unreadCount_of_lt hh ht]
  split
  · rw [Nat.add_sub_cancel' ‹tail ≤ head›, Nat.mod_eq_of_lt hh]
  · rw [Nat.add_sub_cancel' (by omega), Nat.add_mod_right, Nat.mod_eq_of_lt hh]

/-- `head` is the index of no unread byte. -/
theorem tail_add_ne_head {k : Nat} (hk : k < unreadCount c head tail) : (tail + k) % c.C ≠ head := by
  have hcount : unreadCount c head tail < c.C := unreadCount_lt (Nat.zero_lt_of_lt hh) head tail
  intro heq
  have hmod : k % c.C = unreadCount c head tail :=
    (add_mod_eq_iff_mod_eq hcount tail k).1 (heq.trans (tail_add_unreadCount hh ht).symm)
  rw [Nat.mod_eq_of_lt (Nat.lt_trans hk hcount)] at hmod
  exact Nat.ne_of_lt hk hmod

theorem unreadCount_nextIndex_head (hroom : nextIndex c head ≠ tail) :
    unreadCount c (nextIndex c head) tail = unreadCount c head tail + 1 := by
  rw [unreadCount_of_lt (nextIndex_lt hh) ht, unreadCount_of_lt hh ht]
  rw [nextIndex_of_lt hh] at hroom ⊢
  by_cases hwrap : head + 1 = c.C
  · rw [if_pos hwrap] at hroom ⊢
    split <;> split <;> omega
  · rw [if_neg hwrap] at hroom ⊢
    split <;> split <;> omega

theorem unreadCount_nextIndex_tail (hne : head ≠ tail) :
    unreadCount c head tail = unreadCount c head (nextIndex c tail) + 1 := by
  rw [unreadCount_of_lt hh (nextIndex_lt ht), unreadCount_of_lt hh ht, nextIndex_of_lt ht]
  by_cases hwrap : tail + 1 = c.C
  · rw [if_pos hwrap]
    split <;> split <;> omega
  · rw [if_neg hwrap]
    split <;> split <;> omega

end

/-! ## The ring as a list (R197) -/

@[simp] theorem length_contents (s : State) : (contents s).length = unreadCount s.cfg s.head s.tail := by simp [contents]

/-- The list is read off the parameters, the two indices and the slots. -/
theorem contents_congr {s t : State} (hcfg : t.cfg = s.cfg) (hhead : t.head = s.head) (htail : t.tail = s.tail)
    (hmem : SameMemory s t) : contents t = contents s := by
  simp only [contents, hcfg, hhead, htail, hmem _]

/-- `RECV` takes the head of the list: the slot at `tail` is its first byte, and `tail`'s advance leaves the others. -/
theorem contents_eq_cons {s : State} (hh : s.head < s.cfg.C) (ht : s.tail < s.cfg.C) (hne : s.head ≠ s.tail) :
    contents s = Memory.read s.buf s.tail :: contents { s with tail := nextIndex s.cfg s.tail } := by
  have hshift (k : Nat) : (s.tail + (k + 1)) % s.cfg.C = (nextIndex s.cfg s.tail + k) % s.cfg.C := by
    rw [nextIndex, Nat.mod_add_mod, Nat.add_assoc, Nat.add_comm 1]
  simp only [contents, unreadCount_nextIndex_tail hh ht hne, List.range_succ_eq_map, List.map_cons, List.map_map,
    Function.comp_def, Nat.succ_eq_add_one, hshift, Nat.add_zero, Nat.mod_eq_of_lt ht]

/-- A byte put in the slot at `head`, and `head`'s advance, append the byte to the list. -/
theorem contents_append {s t : State} {b : Byte} (hh : s.head < s.cfg.C) (ht : s.tail < s.cfg.C)
    (hroom : nextIndex s.cfg s.head ≠ s.tail) (hcfg : t.cfg = s.cfg) (htail : t.tail = s.tail)
    (hhead : t.head = nextIndex s.cfg s.head) (hslot : Memory.read t.buf s.head = b)
    (hother : ∀ i, i ≠ s.head → Memory.read t.buf i = Memory.read s.buf i) : contents t = contents s ++ [b] := by
  have hkept : ∀ k ∈ List.range (unreadCount s.cfg s.head s.tail),
      Memory.read t.buf ((s.tail + k) % s.cfg.C) = Memory.read s.buf ((s.tail + k) % s.cfg.C) :=
    fun k hk => hother _ (tail_add_ne_head hh ht (List.mem_range.1 hk))
  simp only [contents, hcfg, htail, hhead, unreadCount_nextIndex_head hh ht hroom, List.range_succ, List.map_append,
    List.map_cons, List.map_nil, tail_add_unreadCount hh ht, hslot, List.map_congr_left hkept]

/-- A ring that meets R49 has room exactly where it holds fewer than `C - 1` bytes (item 7). -/
theorem length_contents_lt_iff {s : State} (hring : InvRing s) (hr : s.cfg.rxVariant = .ring) :
    (contents s).length < s.cfg.C - 1 ↔ nextIndex s.cfg s.head ≠ s.tail := by
  obtain ⟨-, -, hle, -, hfull, -⟩ := hring hr
  rw [length_contents, Ne, hfull]
  omega

theorem contents_eq_nil_iff {s : State} (hring : InvRing s) (hr : s.cfg.rxVariant = .ring) :
    contents s = [] ↔ s.head = s.tail := by
  obtain ⟨-, -, -, hempty, -⟩ := hring hr
  rw [← List.length_eq_zero_iff, length_contents, hempty]

/-- `Deliver` on the list: append where there is room, drop where there is none (R196). -/
theorem contents_of_delivered {s t : State} {b : Byte} (hring : InvRing s) (hr : s.cfg.rxVariant = .ring)
    (hcfg : t.cfg = s.cfg) (h : Delivered b s t) :
    contents t = if (contents s).length < s.cfg.C - 1 then contents s ++ [b] else contents s := by
  obtain ⟨hh, ht, -⟩ := hring hr
  simp only [Delivered, hr] at h
  obtain ⟨-, -, htail, h⟩ := h
  split at h
  case isTrue hfull =>
    obtain ⟨hhead, hmem, -⟩ := h
    rw [if_neg (mt (length_contents_lt_iff hring hr).1 (not_not_intro hfull))]
    exact contents_congr hcfg hhead htail hmem
  case isFalse hroom =>
    obtain ⟨hhead, hslot, hother, -⟩ := h
    rw [if_pos ((length_contents_lt_iff hring hr).2 hroom)]
    exact contents_append hh ht hroom hcfg htail hhead hslot hother

/-! ## What each operation does to the list -/

/-- The list is as it was, or it is a good frame's end and the byte received is appended. -/
def KeepsOrAppends (s t : State) : Prop :=
  contents t = contents s ∨ (contents t = contents s ++ [s.rxAcc] ∧ s.rxState = .checkStop ∧ s.rxPin = 1#1)

theorem keepsOrAppends_isrCmpb {s t : State} (hw : Memory.wf s.buf) (hring : InvRing s) (hr : s.cfg.rxVariant = .ring)
    (h : isrCmpb s = .next t) : KeepsOrAppends s t := by
  obtain ⟨-, rfl⟩ | ⟨-, ⟨-, rfl⟩ | ⟨-, rfl⟩ | ⟨-, rfl⟩ | ⟨hs, u, rfl, ⟨hpin, hd⟩ | ⟨-, rfl⟩⟩⟩ := isrCmpb_eq_next h
  · exact .inl rfl
  · exact .inl rfl
  · exact .inl rfl
  · refine .inl ?_
    simp only [rxSampleData]
    split <;> rfl
  · have hcfg : u.cfg = s.cfg := (congrArg State.cfg (deliver_frame hd) :)
    have hsame : SameDelivery s { s with rxOs := s.cfg.N } := .refl s
    have hlist : contents (rxRelease u) = _ :=
      contents_of_delivered hring hr hcfg ((delivered_of_deliver (by exact hw) hd).congr hsame (.refl u))
    rw [KeepsOrAppends, hlist]
    split
    · exact .inr ⟨rfl, hs, hpin⟩
    · exact .inl rfl
  · rw [recordFramingError_frame]
    exact .inl rfl

theorem keepsOrAppends_tickBody {s t : State} (hw : Memory.wf s.buf) (hring : InvRing s) (hr : s.cfg.rxVariant = .ring)
    (h : tickBody s = .next t) : KeepsOrAppends s t := by
  obtain ⟨x, v, rfl, ⟨-, rfl⟩ | ⟨-, hb⟩⟩ := tickBody_eq_next_receive h
  · exact .inl rfl
  · have hv : KeepsOrAppends (countUp s) v := keepsOrAppends_isrCmpb hw hring hr hb
    exact hv

/-- A delivered edge request or none leaves the ring alone. -/
theorem contents_ite_isrEdge (c : Bool) (s : State) : contents (if c then isrEdge s else s) = contents s := by
  cases c
  · rfl
  · simp [contents]

/-- A handler or an environment step appends where a good frame ends, and only `TICK` and `ISR_CMPB` do so. -/
theorem contents_exec_event {i : Instr} {s t : State} (hw : Memory.wf s.buf) (hring : InvRing s)
    (hr : s.cfg.rxVariant = .ring) (hh : isHostOp i = false) (h : exec i s = .next t) :
    contents t = contents s ∨ ((i = .tick ∨ i = .isrCmpb) ∧ KeepsOrAppends s t) := by
  obtain ⟨-, -, early⟩ | ⟨-, live⟩ := exec_event_eq_next hh h
  · obtain rfl | ⟨l, -, rfl⟩ | ⟨v, -, rfl⟩ := early <;> exact .inl rfl
  · obtain ⟨-, rfl⟩ | ⟨-, rfl⟩ | ⟨hi, hb⟩ | ⟨hi, ht⟩ | ⟨l, -, rfl⟩ | ⟨v, -, rfl⟩ := live
    · exact .inl (contents_ite_isrEdge true s)
    · exact .inl (by simp [contents])
    · exact .inr ⟨.inr hi, keepsOrAppends_isrCmpb hw hring hr hb⟩
    · exact .inr ⟨.inl hi, keepsOrAppends_tickBody hw hring hr ht⟩
    · exact .inl (contents_ite_isrEdge _ (setLine l s))
    · exact .inl (contents_ite_isrEdge _ { s with gie := decide (v = 1#1) })

/-- A host operation but `INIT` and `RECV` leaves the ring alone. -/
theorem contents_exec_hostOp {i : Instr} {s t : State} (hh : isHostOp i = true) (hn : i ≠ .init) (hr : i ≠ .recv)
    (h : exec i s = .next t) : contents t = contents s := by
  rw [(exec_hostOp_frame hh hn hr h).1]
  rfl

/-! ## ReceiveQueue: the obligations -/

/-- Settles O47: the unread bytes as a list, which `RECV` takes the head of and `Deliver` appends to; item 7 of R49 gives the
count and says where there is room. -/
theorem ringIsAFifo : Obligations.RingIsAFifo := by
  intro s h hi hr
  obtain ⟨hv, hw, -, -, -, -, hring, -⟩ := InvLive.of_invariant h hi
  obtain ⟨hh, ht, hle, -⟩ := hring hr
  have hready : s.hold = none → Ready s := fun h0 => ⟨⟨hv, hi⟩, h0⟩
  refine ⟨(length_contents s).trans_le hle, fun h0 => ?_, fun b rest h0 hlist => ?_, fun h0 hlist => ?_,
    fun hos hs hpin => ?_, fun i t hn hrecv hexec => ?_⟩
  · exact ⟨availValue s, (availValue_toNat hv hr).trans (length_contents s).symm,
      exec_avail_returns (hready h0) rfl⟩
  · have hne : s.head ≠ s.tail := mt (contents_eq_nil_iff hring hr).2 (by simp [hlist])
    obtain ⟨hb, hrest⟩ := List.cons.inj (hlist.symm.trans (contents_eq_cons hh ht hne))
    exact ⟨_, exec_recv_ring (hready h0) hr hne ht, by rw [hb], hrest.symm⟩
  · exact exec_recv_ring_empty (hready h0) hr ((contents_eq_nil_iff hring hr).1 hlist)
  · obtain ⟨t, hexec, hdelivered, -, -, -, -, -, -, -, -, ⟨hcfg, -⟩, -⟩ := exec_isrCmpb_delivers h hi hos hs hpin
    exact ⟨t, hexec, contents_of_delivered hring hr hcfg hdelivered⟩
  · cases hhost : isHostOp i with
    | true => exact .inl (contents_exec_hostOp hhost hn hrecv hexec)
    | false =>
      obtain hsame | ⟨hi, hsame | ⟨happend, hstop⟩⟩ := contents_exec_event hw hring hr hhost hexec
      · exact .inl hsame
      · exact .inl hsame
      · exact .inr ⟨happend, hi, hstop⟩

/-- Settles O39: arm `CheckStop` with a high sample, from the state with the countdown reloaded. -/
theorem goodStopBitDelivers : Obligations.GoodStopBitDelivers := fun _ => exec_isrCmpb_delivers

/-- Settles O40: arm `CheckStop` with a low sample. -/
theorem lowStopBitIsAFramingError : Obligations.LowStopBitIsAFramingError := by
  intro s h hos hs hpin
  have hstop := rxCheckStop_low hpin { s with rxOs := s.cfg.N }
  have hsame : SameDelivery s { s with rxOs := s.cfg.N } := .refl s
  have hrecorded : FramingErrorRecorded s (rxRelease (recordFramingError { s with rxOs := s.cfg.N })) :=
    (framingErrorRecorded_recordFramingError _).congr hsame (.refl (recordFramingError _))
  exact ⟨_, (exec_isrCmpb_checkStop h hos hs).trans hstop, hrecorded, ⟨rfl, rfl, rfl, rfl⟩,
    stopBitFrame_of_rxCheckStop hstop⟩

/-- Settles O44: the code of `available` in each of its three states, and the count of indices in range. -/
theorem availReturnsTheCount : Obligations.AvailReturnsTheCount := by
  intro s h
  refine ⟨fun hr => exec_avail_returns h ?_, fun hr hh ht => ⟨availValue s, ?_, exec_avail_returns h rfl⟩⟩
  · rw [availValue_single hr]
    cases s.available <;> rfl
  · rw [availValue_toNat h.1.1 hr, unreadCount_of_lt hh ht]

/-- Settles O45: `RECV`'s body behind its hold, whose condition is `available = Byte` or a ring that is not empty. -/
theorem recvConsumesTheByte : Obligations.RecvConsumesTheByte := by
  intro s h
  refine ⟨exec_recv_single h, fun hr ha => ?_, exec_recv_ring h, exec_recv_ring_empty h⟩
  exact exec_recv_waits h (by simp [byteWaiting_single hr, ha])

end Sys2Proof.Machine
end

section
/-! SUPPORT. System operations (45_system.md): the state `INIT` leaves and when it is refused (R50, R210, R211), and the edge a
`GIE` serves (R212). -/

namespace Sys2Proof.Machine

/-! ## `INIT` (R50, R210) -/

/-- Only the parameters, the inputs, what is still to come and the trace outlive `INIT`: the rest is the state of R50. -/
theorem initState_eq (s : State) :
    initState s =
      { State.reset with
        cfg := s.cfg, top := s.cfg.P, rxPin := s.rxPin, gie := s.gie
        program := s.program, envQueue := s.envQueue, vector := s.vector, turns := s.turns, trace := s.trace } := rfl

theorem exec_init_masked {s : State} (hv : s.cfg.valid = true) (hg : s.gie = false) :
    exec .init s = .next (initState s) := by
  rw [exec_init, onBlock_valid hv, hg, if_neg Bool.false_ne_true]

theorem exec_init_enabled {s : State} (hv : s.cfg.valid = true) (hg : s.gie = true) :
    exec .init s = .refused .initWithInterruptsEnabled := by rw [exec_init, onBlock_valid hv, if_pos hg]

/-! ## `GIE` (R212) -/

theorem edgeDelivered_iff (s : State) :
    edgeDelivered s = true ↔ (s.edgeIf = true ∧ s.edgeIe = true) ∧ s.gie = true := by
  simp [edgeDelivered, delivered]

theorem exec_gie_delivered {s : State} (h : Live s) {v : Bit}
    (hd : edgeDelivered { s with gie := decide (v = 1#1) } = true) :
    exec (.gie v) s = exec .isrEdge { s with gie := decide (v = 1#1) } := by
  rw [exec_gie h, serveEdge_eq, if_pos hd, exec_isrEdge (by exact h)]

theorem exec_gie_undelivered {s : State} (h : Live s) {v : Bit}
    (hd : ¬edgeDelivered { s with gie := decide (v = 1#1) } = true) :
    exec (.gie v) s = .next { s with gie := decide (v = 1#1) } := by rw [exec_gie h, serveEdge_eq, if_neg hd]

/-! ## System: the obligations -/

/-- Settles O18: past the guards of R12 and R210, `INIT` is `initState`. -/
theorem initGivesTheResetState : Obligations.InitGivesTheResetState :=
  ⟨fun s hv hg => initState_eq s ▸ exec_init_masked hv hg, fun _ => exec_init_enabled⟩

/-- Settles O17: the fields of the state of O18, one by one; an empty ring-buffer space reads 0 at every index. -/
theorem initLeavesTheStateOfR50 : Obligations.InitLeavesTheStateOfR50 := by
  intro s hv _
  refine ⟨fun hg => ⟨initState s, exec_init_masked hv hg, ?_⟩, exec_init_enabled hv⟩
  simp [initState_eq, State.reset, blankByte]

/-- Settles O48: with the gate closed nothing is delivered; with it open, the latch and the sensor's enable decide. -/
theorem gieServesALatchedEdge : Obligations.GieServesALatchedEdge := by
  intro s h
  refine ⟨?_, fun hf he => ?_, fun hmasked => ?_⟩
  · exact exec_gie_undelivered h (v := 0#1) (by simp [edgeDelivered_iff])
  · exact exec_gie_delivered h (v := 1#1) ((edgeDelivered_iff _).2 ⟨⟨hf, he⟩, rfl⟩)
  · exact exec_gie_undelivered h (v := 1#1) fun hd => hmasked ((edgeDelivered_iff _).1 hd).1

end Sys2Proof.Machine
end

section
/-! SUPPORT. The two contexts (60_exceptions.md): what handlers and environment steps may write (R230, R233, R241), what the
foreground may (R241), and the order of the two compare handlers (R228). -/

namespace Sys2Proof.Machine

/-! ## Relations that every handler and environment step keeps -/

/-- A handler or an environment step is made of writes to the counter, the line, the latch and the gate, and of runs of the
three handlers: a transitive relation that holds of each of these holds of the whole. -/
theorem exec_event_relates {R : State → State → Prop} (htrans : ∀ {s t u}, R s t → R t u → R s u)
    (hplain : ∀ s c l f g, R s { s with cnt := c, rxPin := l, edgeIf := f, gie := g }) (hedge : ∀ s, R s (isrEdge s))
    (hcmpa : ∀ s, R s (isrCmpa s)) (hcmpb : ∀ {s t}, isrCmpb s = .next t → R s t)
    {i : Instr} {s t : State} (hh : isHostOp i = false) (h : exec i s = .next t) : R s t := by
  have hserve : ∀ {u} (c : Bool), R s u → R s (if c then isrEdge u else u) := by
    intro u c hu
    cases c
    · exact hu
    · exact htrans hu (hedge u)
  obtain ⟨-, -, early⟩ | ⟨-, live⟩ := exec_event_eq_next hh h
  · obtain rfl | ⟨l, -, rfl⟩ | ⟨v, -, rfl⟩ := early <;> exact hplain _ _ _ _ _
  · obtain ⟨-, rfl⟩ | ⟨-, rfl⟩ | ⟨-, hb⟩ | ⟨-, ht⟩ | ⟨l, -, rfl⟩ | ⟨v, -, rfl⟩ := live
    · exact hedge s
    · exact hcmpa s
    · exact hcmpb hb
    · obtain ⟨u, hu, hut⟩ := tickBody_eq_next ht
      have hcount : R s (countUp s) := hplain s _ _ _ _
      have hsu : R s u := by
        obtain ⟨-, rfl⟩ | ⟨-, rfl⟩ := hu
        · exact hcount
        · exact htrans hcount (hcmpa _)
      obtain ⟨-, rfl⟩ | ⟨-, hb⟩ := hut
      · exact hsu
      · exact htrans hsu (hcmpb hb)
    · exact hserve _ (hplain s _ _ _ _)
    · exact hserve _ (hplain s _ _ _ _)

/-! ## What handlers leave to the foreground (R230, R233) -/

/-- The foreground's hold, the inputs still to come, the parameters and `initialized` are the same. -/
def KeepsForeground (s t : State) : Prop := SameInputs s t ∧ t.cfg = s.cfg ∧ t.initialized = s.initialized

theorem KeepsForeground.trans {s t u : State} (h : KeepsForeground s t) (h' : KeepsForeground t u) :
    KeepsForeground s u := by
  obtain ⟨⟨hhold, hprogram, hqueue, hvector, hturns⟩, hcfg, hinit⟩ := h
  simpa only [KeepsForeground, SameInputs, hhold, hprogram, hqueue, hvector, hturns, hcfg, hinit] using h'

theorem keepsForeground_isrEdge (s : State) : KeepsForeground s (isrEdge s) := by simp [KeepsForeground, SameInputs]

theorem keepsForeground_isrCmpa (s : State) : KeepsForeground s (isrCmpa s) := by simp [KeepsForeground, SameInputs]

theorem keepsForeground_isrCmpb {s t : State} (h : isrCmpb s = .next t) : KeepsForeground s t := by
  rw [isrCmpb_frame h]
  simp [KeepsForeground, SameInputs]

/-! ## What handlers and environment steps may write (R241) -/

/-- The rows of R241 for the other context, and that it never enables channel A. -/
def OtherContextWrites (s t : State) : Prop :=
  (s.sendReady = true → t.sendReady = true) ∧ t.tail = s.tail ∧ t.cmpA = s.cmpA ∧
  (t.available = s.available ∨ t.available = .byte ∨ t.available = .framingError) ∧ (t.ieA = true → s.ieA = true)

theorem OtherContextWrites.trans {s t u : State} (h : OtherContextWrites s t) (h' : OtherContextWrites t u) :
    OtherContextWrites s u := by
  obtain ⟨hready, htail, hcmp, havail, hie⟩ := h
  obtain ⟨hready', htail', hcmp', havail', hie'⟩ := h'
  refine ⟨hready' ∘ hready, htail'.trans htail, hcmp'.trans hcmp, ?_, hie ∘ hie'⟩
  obtain hsame | hnew := havail'
  · rwa [hsame]
  · exact .inr hnew

/-- An advance of the transmitter never takes `send_ready` away and never enables channel A. -/
theorem txAdvance_sendReady_ieA (s : State) :
    (s.sendReady = true → (txAdvance s).sendReady = true) ∧ ((txAdvance s).ieA = true → s.ieA = true) := by
  cases hs : s.txState with
  | idle => simp [txAdvance_idle hs]
  | sendStart => simp [txAdvance_sendStart hs]
  | sendStop => simp [txAdvance_sendStop hs]
  | finishing => simp [txAdvance_finishing hs]
  | sendData =>
    simp only [txAdvance, hs, txSendData]
    split <;> exact ⟨id, id⟩
  | timedDelay =>
    simp only [txAdvance, hs, txTimedDelay]
    split
    · exact ⟨fun _ => rfl, nofun⟩
    · exact ⟨id, id⟩

theorem isrCmpa_sendReady_ieA (s : State) :
    (s.sendReady = true → (isrCmpa s).sendReady = true) ∧ ((isrCmpa s).ieA = true → s.ieA = true) := by
  by_cases hos : 1 < s.txOs
  · rw [isrCmpa_countdown hos]
    exact ⟨id, id⟩
  · rw [isrCmpa_advance (Nat.not_lt.1 hos)]
    exact txAdvance_sendReady_ieA { s with txOs := s.cfg.N }

theorem deliver_available {b : Byte} {s t : State} (h : deliver b s = .next t) :
    t.available = s.available ∨ t.available = .byte := by
  obtain ⟨-, rfl⟩ | ⟨-, -, rfl⟩ | ⟨-, -, -, rfl⟩ := deliver_eq_next h
  · exact .inr rfl
  · exact .inl rfl
  · exact .inl rfl

theorem recordFramingError_available (s : State) :
    (recordFramingError s).available = s.available ∨ (recordFramingError s).available = .framingError := by
  cases hv : s.cfg.rxVariant <;> simp [recordFramingError, hv]

/-- Only the stop bit's arm of the channel-B handler moves `available`, and never to `None`. -/
theorem isrCmpb_available {s t : State} (h : isrCmpb s = .next t) :
    t.available = s.available ∨ t.available = .byte ∨ t.available = .framingError := by
  obtain ⟨-, rfl⟩ | ⟨-, ⟨-, rfl⟩ | ⟨-, rfl⟩ | ⟨-, rfl⟩ | ⟨-, u, rfl, ⟨-, hu⟩ | ⟨-, rfl⟩⟩⟩ := isrCmpb_eq_next h
  · exact .inl rfl
  · exact .inl rfl
  · exact .inl rfl
  · refine .inl ?_
    simp only [rxSampleData]
    split <;> rfl
  · exact (deliver_available hu).imp_right .inl
  · exact (recordFramingError_available { s with rxOs := s.cfg.N }).imp_right .inr

theorem otherContextWrites_isrEdge (s : State) : OtherContextWrites s (isrEdge s) := by
  rw [isrEdge_frame]
  exact ⟨id, rfl, rfl, .inl rfl, id⟩

theorem otherContextWrites_isrCmpa (s : State) : OtherContextWrites s (isrCmpa s) := by
  obtain ⟨hready, hie⟩ := isrCmpa_sendReady_ieA s
  exact ⟨hready, isrCmpa_tail s, isrCmpa_cmpA s, .inl (isrCmpa_available s), hie⟩

theorem otherContextWrites_isrCmpb {s t : State} (h : isrCmpb s = .next t) : OtherContextWrites s t := by
  have havail := isrCmpb_available h
  rw [isrCmpb_frame h]
  exact ⟨id, rfl, rfl, havail, id⟩

/-! ## What the foreground may write (R241) -/

section
variable {i : Instr} {s t : State} (hh : isHostOp i = true) (hn : i ≠ .init) (h : exec i s = .next t)
include hh hn h

/-- A busy transmitter stays busy: no host operation but `INIT` writes to it. -/
theorem exec_hostOp_sendReady (ht : t.sendReady = true) : s.sendReady = true := by
  cases hs : s.sendReady with
  | true => rfl
  | false =>
    obtain ⟨-, -, -, -, -, -, -, -, hready⟩ := exec_hostOp_busy_sameTransmit hh hn h hs
    rw [← ht, hready, hs]

/-- The line and the producer's side of the receive buffer are not the foreground's. -/
theorem exec_hostOp_sameProducer :
    t.txPin = s.txPin ∧ t.head = s.head ∧ t.buf = s.buf ∧ t.recvByte = s.recvByte := by
  by_cases hr : i = .recv
  · rw [exec_receiveHostOp_frame (.inl hr) h]
    exact ⟨rfl, rfl, rfl, rfl⟩
  · obtain ⟨hframe, hpin⟩ := exec_hostOp_frame hh hn hr h
    rw [hframe]
    exact ⟨hpin, rfl, rfl, rfl⟩

/-- Only `RECV` moves `available`, and only to `None`. -/
theorem exec_hostOp_available : t.available = s.available ∨ t.available = .none := by
  by_cases hr : i = .recv
  · subst hr
    obtain ⟨-, ⟨-, rfl⟩ | ⟨-, done⟩⟩ := exec_hostOp_eq_next hh hn h
    · exact .inl rfl
    · obtain ⟨w, rfl⟩ | ⟨r, rfl⟩ | ⟨b, hi, -⟩ | ⟨-, -, hbody⟩ | ⟨d, hi, -⟩ | ⟨d, hi, -⟩ := done
      · exact .inl rfl
      · exact .inl rfl
      · cases hi
      · obtain ⟨-, rfl⟩ | ⟨-, -, rfl⟩ := recvBody_eq_next hbody
        · exact .inr rfl
        · exact .inl rfl
      · cases hi
      · cases hi
  · rw [(exec_hostOp_frame hh hn hr h).1]
    exact .inl rfl

end

/-! ## The contexts: the obligations -/

/-- Settles O55: no handler has a field of the foreground to write, nor have the environment's own writes. -/
theorem handlersLeaveTheForegroundAlone : Obligations.HandlersLeaveTheForegroundAlone := by
  intro i s t hh h
  have hkeeps : KeepsForeground s t :=
    exec_event_relates .trans (fun _ _ _ _ _ => ⟨⟨rfl, rfl, rfl, rfl, rfl⟩, rfl, rfl⟩) keepsForeground_isrEdge
      keepsForeground_isrCmpa keepsForeground_isrCmpb hh h
  exact hkeeps

/-- Settles O56: each compare handler writes only what the other ignores, and where channel B's faults it faults in either
order. -/
theorem handlerOrderIsUnobservable : Obligations.HandlerOrderIsUnobservable := by
  intro s h
  have hA := exec_isrCmpa h
  cases hB : exec .isrCmpb s with
  | next t =>
    obtain ⟨ht, -⟩ := exec_receiveEvent_frame (.inr (.inl rfl)) hB
    rw [← hB]
    exact thenDo_comm_of_ignores hB ht (fun _ => exec_isrCmpa_frame) (exec_ignores_receive t (.inl rfl))
      fun x => exec_ignores_transmit x (.inr (.inl rfl))
  | fault | refused =>
    rw [hA, thenDo_next, exec_isrCmpa_frame hA, exec_ignores_transmit _ (.inr (.inl rfl)), hB]
    rfl

/-- Settles O58: the foreground's rows by its operations' frames, the other context's by its handlers'. -/
theorem contextsWriteTheirOwnFields : Obligations.ContextsWriteTheirOwnFields := by
  refine ⟨fun i s t hh hn h => ?_, fun i s t hh h => ?_⟩
  · obtain ⟨hpin, hhead, hbuf, hbyte⟩ := exec_hostOp_sameProducer hh hn h
    exact ⟨exec_hostOp_sendReady hh hn h, hpin, hhead, fun k => by rw [hbuf], hbyte, exec_hostOp_available hh hn h,
      exec_hostOp_sameReceiver hh hn h⟩
  · have hwrites : OtherContextWrites s t :=
      exec_event_relates .trans (fun _ _ _ _ _ => ⟨id, rfl, rfl, .inl rfl, id⟩) otherContextWrites_isrEdge
        otherContextWrites_isrCmpa otherContextWrites_isrCmpb hh h
    exact hwrites

end Sys2Proof.Machine
end

section
/-! SUPPORT. Words and operations (30_encoding.md): that decoding and encoding agree (R84 to R86, R92), and that the opcode
table's words are those of the encoder (log 16). -/

namespace Sys2Proof

/-! ## Commands (R84 to R86) -/

/-- The four bytes of an `imm32` are an operand of format `F4`, and give it back. -/
theorem decodeImm32_imm32Bytes (op : Byte) (k : Word32 → Instr) (d : Word32) (rest : List Byte) :
    decodeImm32 op k (imm32Bytes d ++ rest) = .command (k d) rest := by
  rw [imm32Bytes, List.cons_append, List.cons_append, List.cons_append, List.cons_append, List.nil_append,
    decodeImm32_cons, imm32Of_imm32Byte]

/-- An operand of format `F1` is its one byte. -/
theorem decodeImm8_eq_command {op : Byte} {k : Byte → Instr} {bs rest : List Byte} {i : Instr}
    (h : decodeImm8 op k bs = .command i rest) : ∃ b, i = k b ∧ bs = b :: rest := by
  match bs with
  | [] => cases h
  | b :: _ => cases h; exact ⟨b, rfl, rfl⟩

/-- An operand of format `F4` is the four bytes of an `imm32`. -/
theorem decodeImm32_eq_command {op : Byte} {k : Word32 → Instr} {bs rest : List Byte} {i : Instr}
    (h : decodeImm32 op k bs = .command i rest) : ∃ d, i = k d ∧ bs = imm32Bytes d ++ rest := by
  match bs with
  | [] | [_] | [_, _] | [_, _, _] => cases h
  | b0 :: b1 :: b2 :: b3 :: _ =>
    cases h
    exact ⟨imm32Of b0 b1 b2 b3, rfl, by rw [imm32Bytes_imm32Of]; rfl⟩

/-- A host operation's command word, at the front of a stream, decodes to it. -/
theorem decodeCommand_append {i : Instr} {bs : List Byte} (h : encode i = .command bs) (rest : List Byte) :
    decodeCommand (bs ++ rest) = .command i rest := by
  cases i with
  | init | avail | txrdy | send | recv => cases h; rfl
  | alarm d => cases h; exact decodeImm32_imm32Bytes 0x05#8 .alarm d rest
  | delay d => cases h; exact decodeImm32_imm32Bytes 0x06#8 .delay d rest
  | isrEdge | isrCmpa | isrCmpb | tick | rxline | gie => cases h

/-- A stream that decodes begins with the command word of the operation it decodes to. -/
theorem encode_of_decodeCommand {bs rest : List Byte} {i : Instr} (h : decodeCommand bs = .command i rest) :
    ∃ word, encode i = .command word ∧ bs = word ++ rest := by
  match bs with
  | [] => cases h
  | op :: bs =>
    have hop : op.toNat < 7 := Nat.lt_of_not_le fun hres => nomatch (decodeCommand_reserved hres bs).symm.trans h
    obtain rfl | rfl | rfl | rfl | rfl | rfl | rfl := opcode_cases hop
    · cases h; exact ⟨_, rfl, rfl⟩
    · cases h; exact ⟨_, rfl, rfl⟩
    · cases h; exact ⟨_, rfl, rfl⟩
    · obtain ⟨b, rfl, rfl⟩ := decodeImm8_eq_command h
      exact ⟨_, rfl, rfl⟩
    · cases h; exact ⟨_, rfl, rfl⟩
    · obtain ⟨d, rfl, rfl⟩ := decodeImm32_eq_command h
      exact ⟨_, rfl, rfl⟩
    · obtain ⟨d, rfl, rfl⟩ := decodeImm32_eq_command h
      exact ⟨_, rfl, rfl⟩

/-- The operations that have a command encoding are the host operations (R92). -/
theorem isHostOp_of_encode {i : Instr} {bs : List Byte} (h : encode i = .command bs) : Machine.isHostOp i = true := by
  cases i with
  | init | avail | txrdy | send | recv | alarm | delay => rfl
  | isrEdge | isrCmpa | isrCmpb | tick | rxline | gie => cases h

theorem encode_of_isHostOp {i : Instr} (h : Machine.isHostOp i = true) : encode i = .command (commandBytes i) := by
  cases i with
  | init | avail | txrdy | send | recv | alarm | delay => rfl
  | isrEdge | isrCmpa | isrCmpb | tick | rxline | gie => cases h

/-! ## Environment words and vectors (R92) -/

theorem decodeEnv_rxline {w : BitVec 3} (h : w.extractLsb' 0 2 = 1#2) :
    decodeEnv w = some (.rxline (w.extractLsb' 2 1)) := by
  simp [decodeEnv, h]

theorem decodeEnv_gie {w : BitVec 3} (h : w.extractLsb' 0 2 = 2#2) : decodeEnv w = some (.gie (w.extractLsb' 2 1)) := by
  simp [decodeEnv, h]

/-- Each of the eight environment words is undefined or the word of what it decodes to (log 17). -/
theorem encode_of_decodeEnv : ∀ w : BitVec 3, ∀ i ∈ decodeEnv w, encode i = .environment w := by decide

/-- Each of the four vectors is unused or the vector of what it decodes to. -/
theorem encode_of_decodeVector : ∀ v : BitVec 2, ∀ i ∈ decodeVector v, encode i = .vector v := by decide

/-! ## Words of every kind -/

/-- A word of commands decodes to an operation exactly where the stream does and nothing is left over. -/
theorem decode_command_eq_some {bs : List Byte} {i : Instr} :
    decode (.command bs) = some i ↔ decodeCommand bs = .command i [] := by
  cases h : decodeCommand bs with
  | command j rest => cases rest <;> simp [decode, h]
  | bad e => simp [decode, h]

theorem decode_command_bad {bs : List Byte} {e : DecodeError} (h : decodeCommand bs = .bad e) :
    decode (.command bs) = none := by rw [decode, h]

theorem decode_encode (i : Instr) : decode (encode i) = some i := by
  cases hi : Machine.isHostOp i with
  | true =>
    have hword := encode_of_isHostOp hi
    rw [hword, decode_command_eq_some, ← decodeCommand_append hword [], List.append_nil]
  | false =>
    cases i with
    | init | avail | txrdy | send | recv | alarm | delay => cases hi
    | isrEdge | isrCmpa | isrCmpb | tick => rfl
    | rxline l => revert l; decide
    | gie v => revert v; decide

/-- No two words stand for the same operation, and no bit of a word is dropped. -/
theorem eq_encode_of_decode {c : Code} {i : Instr} (h : decode c = some i) : c = encode i := by
  cases c with
  | command bs =>
    obtain ⟨word, hword, rfl⟩ := encode_of_decodeCommand (decode_command_eq_some.1 h)
    rw [hword, List.append_nil]
  | environment w => exact (encode_of_decodeEnv w i h).symm
  | vector v => exact (encode_of_decodeVector v i h).symm

/-! ## The opcode table's words (log 16) -/

/-- A table word's first byte is the opcode. -/
theorem tableByte_opcode (op : Byte) (n : Nat) : tableByte (op.toNat + 256 * n) 0 = op := by
  apply BitVec.eq_of_toNat_eq
  have := op.isLt
  simp only [tableByte, BitVec.toNat_ofNat]
  omega

/-- The bytes after it are those of the operand. -/
theorem tableByte_operand (op : Byte) (n k : Nat) : tableByte (op.toNat + 256 * n) (k + 1) = tableByte n k := by
  have := op.isLt
  have hdrop : (op.toNat + 256 * n) / 256 = n := by omega
  rw [tableByte, Nat.pow_succ', ← Nat.div_div_eq_div_mul, hdrop, tableByte]

/-- The bytes of an `imm32` are those of its value. -/
theorem tableByte_toNat (d : Word32) (k : Nat) : tableByte d.toNat k = imm32Byte d k := by
  apply BitVec.eq_of_toNat_eq
  rw [tableByte, imm32Byte, BitVec.extractLsb'_toNat, BitVec.toNat_ofNat, Nat.shiftRight_eq_div_pow, Nat.pow_mul]

/-- A table word holds the opcode and as much of the operand as the opcode's format asks for (R84). -/
theorem tableCommand_eq (op : Byte) (n : Nat) :
    tableCommand (op.toNat + 256 * n) =
      [op, tableByte n 0, tableByte n 1, tableByte n 2, tableByte n 3].take (commandLength op) := by
  simp only [tableCommand, tableBytes, tableByte_opcode, tableByte_operand op n]

/-- The table and the encoder give an operation the same word. -/
theorem tableCode_eq_encode (i : Instr) : tableCode (tableWidth i) (tableBits i) = encode i := by
  cases i with
  | init | avail | txrdy | recv | isrEdge | isrCmpa | isrCmpb | tick => rfl
  | send b =>
    have hbyte : tableByte b.toNat 0 = b := tableByte_opcode b 0
    exact congrArg Code.command ((tableCommand_eq 0x03#8 b.toNat).trans (by rw [hbyte]; rfl))
  | alarm d =>
    exact congrArg Code.command ((tableCommand_eq 0x05#8 d.toNat).trans (by simp only [tableByte_toNat]; rfl))
  | delay d =>
    exact congrArg Code.command ((tableCommand_eq 0x06#8 d.toNat).trans (by simp only [tableByte_toNat]; rfl))
  | rxline l => revert l; decide
  | gie v => revert v; decide

namespace Machine

/-! ## Encodings: the obligations -/

/-- Settles O3: a command word decodes in any stream, and each kind of word that decodes is read back by its own lemma. -/
theorem decodeAndEncodeAgree : Obligations.DecodeAndEncodeAgree :=
  ⟨decode_encode, fun _ _ => eq_encode_of_decode, fun _ _ rest h => decodeCommand_append h rest,
    fun _ _ _ => encode_of_decodeCommand⟩

/-- Settles O4: the table's word of an operation is the encoder's. -/
theorem tableWordsDecode : Obligations.TableWordsDecode := fun i => by
  rw [decodeTableWord, tableCode_eq_encode, decode_encode]

/-- Settles O1: each word that decodes is the word of its operation; the others have a reserved opcode or are cut short. -/
theorem sampleWordsDecode : Obligations.SampleWordsDecode :=
  ⟨decode_encode .init, decode_encode .avail, decode_encode .txrdy, decode_encode .recv, decode_encode (.send 0x55#8),
    decode_encode (.alarm 1000#32), decode_encode (.delay 1#32),
    decode_command_bad (decodeCommand_reserved (by decide) _), decode_command_bad (decodeCommand_reserved (by decide) _),
    decode_command_bad (decodeCommand_truncated (by decide) (by decide)),
    decode_encode .isrEdge, decode_encode .isrCmpa, decode_encode .isrCmpb, decode_encode .tick,
    decode_encode (.rxline 0#1), decode_encode (.rxline 1#1), decode_encode (.gie 0#1), decode_encode (.gie 1#1)⟩

/-- Settles O6: the selector decides the environment step, and what a stream decodes to has a command word. -/
theorem eventsAndEnvironmentWords : Obligations.EventsAndEnvironmentWords := by
  refine ⟨rfl, rfl, rfl, rfl, fun _ => decodeEnv_rxline, fun _ => decodeEnv_gie, fun bs i rest h => ?_⟩
  obtain ⟨_, hword, -⟩ := encode_of_decodeCommand h
  exact isHostOp_of_encode hword

end Machine

end Sys2Proof
end

section
/-! SUPPORT. What a step performs (00_scope.md R7, R84, R92): the command, environment word or vector that is next (log 1, log 9),
and a word placed to be next (log 16). -/

namespace Sys2Proof.Machine

/-! ## The next word -/

/-- On its turn a foreground in no hold performs the command its bytes decode to. -/
theorem step_command {s : State} {i : Instr} {rest : List Byte} (hv : s.vector = none) (hm : mover s = .foreground)
    (hh : s.hold = none) (h : decodeCommand s.program = .command i rest) :
    step s = exec i { s with turns := s.turns.tail, program := rest } := by
  simp [step, nextMove, hv, hm, foregroundMove, takeTurn, hh, h, perform]

/-- On its turn the environment makes its next move, from the state with the turn taken. -/
theorem step_environment {s : State} (hv : s.vector = none) (hm : mover s = .environment) :
    step s = perform (environmentMove (takeTurn s)) := by simp [step, nextMove, hv, hm]

theorem environmentMove_nil {s : State} (h : s.envQueue = []) : environmentMove s = .issue .tick s := by
  rw [environmentMove, h]

theorem environmentMove_word {s : State} {w : BitVec 3} {rest : List (BitVec 3)} {i : Instr}
    (h : s.envQueue = w :: rest) (hi : decodeEnv w = some i) :
    environmentMove s = .issue i { s with envQueue := rest } := by simp [environmentMove, h, hi]

theorem environmentMove_undefined {s : State} {w : BitVec 3} {rest : List (BitVec 3)}
    (h : s.envQueue = w :: rest) (hw : decodeEnv w = none) :
    environmentMove s = .reject (.undefinedEnvironmentWord w) := by simp [environmentMove, h, hw]

/-- A vector in the probing device is what is performed, whose turn it may be (log 9). -/
theorem step_vector {s : State} {v : BitVec 2} {i : Instr} (hv : s.vector = some v) (h : decodeVector v = some i) :
    step s = exec i { s with vector := none } := by
  simp [step, nextMove, hv, vectorMove, h, perform]

/-! ## A word placed to be next (log 16) -/

/-- A command is placed in front of the program of a foreground whose hold is dropped. -/
theorem step_placeCode_command {i : Instr} (h : isHostOp i = true) (s : State) :
    step (placeCode (encode i) s) = exec i { s with vector := none, hold := none } := by
  have hword := encode_of_isHostOp h
  rw [hword]
  exact step_command rfl rfl rfl (decodeCommand_append hword s.program)

/-- An environment word or a vector is placed as it is. -/
theorem step_placeCode_event {i : Instr} (h : isHostOp i = false) (s : State) :
    step (placeCode (encode i) s) = exec i { s with vector := none } := by
  have hdecode := decode_encode i
  cases hword : encode i with
  | command bs =>
    rw [isHostOp_of_encode hword] at h
    cases h
  | environment w =>
    rw [hword] at hdecode
    exact (step_environment rfl rfl).trans (congrArg perform (environmentMove_word rfl hdecode))
  | vector v =>
    rw [hword] at hdecode
    exact step_vector rfl hdecode

/-- A table word is placed as the encoder's word of its operation. -/
theorem withFetchWord_eq (s : State) (i : Instr) :
    s.withFetchWord (tableWidth i) (tableBits i) = placeCode (encode i) s := by
  rw [State.withFetchWord, tableCode_eq_encode]

/-! ## Steps: the obligations -/

/-- Settles O7: the foreground's move is to issue the command its bytes decode to. -/
theorem stepPerformsTheDecodedCommand : Obligations.StepPerformsTheDecodedCommand :=
  fun _ _ _ => step_command

/-- Settles O8: the environment's move is its next word, `TICK` without one, and a rejection of a word that is none. -/
theorem stepPerformsTheEnvironmentWord : Obligations.StepPerformsTheEnvironmentWord := by
  refine ⟨fun s w i rest hv hm hq hi => ?_, fun s hv hm hq => ?_, fun s w rest hv hm hq hw => ?_⟩
  · rw [step_environment hv hm, environmentMove_word (s := takeTurn s) hq hi]; rfl
  · rw [step_environment hv hm, environmentMove_nil (s := takeTurn s) hq]; rfl
  · rw [step_environment hv hm, environmentMove_undefined (s := takeTurn s) hq hw]; rfl

/-- Settles O9: the probing device goes first, and vector 0 is not used. -/
theorem stepPerformsTheVector : Obligations.StepPerformsTheVector := by
  refine ⟨fun _ _ _ => step_vector, fun s hv => ?_⟩
  rw [step, nextMove, hv]
  rfl

/-- Settles O10: the table's word of an operation is the encoder's, and a placed word is the next one. -/
theorem placedWordRunsNext : Obligations.PlacedWordRunsNext := by
  intro s i
  rw [withFetchWord_eq]
  exact ⟨fun h => step_placeCode_command h s, fun h => step_placeCode_event h s⟩

end Sys2Proof.Machine
end

section
/-! SUPPORT. Hazards (70_reset_and_hazards.md): the block before the first `INIT` (R251), and that a compare value never changes
under a running engine (R270). -/

namespace Sys2Proof.Machine

/-! ## Channel B's compare value (R162, R270) -/

/-- No request is delivered where the sensor is disabled (R161). -/
theorem not_edgeDelivered {s : State} (h : s.edgeIe = false) : ¬edgeDelivered s = true := by
  simp [edgeDelivered_iff, h]

theorem isrCmpb_cmpB {s t : State} (h : isrCmpb s = .next t) : t.cmpB = s.cmpB := by rw [isrCmpb_frame h]

theorem tickBody_cmpB {s t : State} (h : tickBody s = .next t) : t.cmpB = s.cmpB := by
  obtain ⟨u, hu, ht⟩ := tickBody_eq_next h
  have hsame : u.cmpB = s.cmpB := by
    obtain ⟨-, rfl⟩ | ⟨-, rfl⟩ := hu
    · rfl
    · exact isrCmpa_cmpB (countUp s)
  obtain ⟨-, rfl⟩ | ⟨-, hb⟩ := ht
  · exact hsame
  · exact (isrCmpb_cmpB hb).trans hsame

/-- Only the edge sensor's handler writes `cmp_b`, and with the sensor disabled no event runs it. -/
theorem exec_event_cmpB {i : Instr} {s t : State} (hh : isHostOp i = false) (h : exec i s = .next t)
    (hsensor : s.edgeIe = false) (hne : i ≠ .isrEdge) : t.cmpB = s.cmpB := by
  obtain ⟨-, -, early⟩ | ⟨-, live⟩ := exec_event_eq_next hh h
  · obtain rfl | ⟨l, -, rfl⟩ | ⟨v, -, rfl⟩ := early <;> rfl
  · obtain ⟨hi, -⟩ | ⟨-, rfl⟩ | ⟨-, hb⟩ | ⟨-, ht⟩ | ⟨l, -, rfl⟩ | ⟨v, -, rfl⟩ := live
    · exact absurd hi hne
    · exact isrCmpa_cmpB s
    · exact isrCmpb_cmpB hb
    · exact tickBody_cmpB ht
    · rw [if_neg (not_edgeDelivered (by exact hsensor))]
      rfl
    · rw [if_neg (not_edgeDelivered (by exact hsensor))]

/-! ## The running engines (R49 items 1 to 3) -/

/-- A running transmit engine is not ready. -/
theorem sendReady_of_ieA {s : State} (h : InvTx s) (hie : s.ieA = true) : s.sendReady = false :=
  let ⟨_, hbusy, _⟩ := h
  (sendReady_ieA_of_busy h (hbusy.1 hie)).1

/-- A running receiver has the sensor disabled. -/
theorem edgeIe_of_ieB {s : State} (h : InvRx s) (hie : s.ieB = true) : s.edgeIe = false := by
  obtain ⟨-, hsensor, -⟩ := h
  simpa [hie] using hsensor

/-! ## Hazards: the obligations -/

/-- Settles O59: `cmp_a` is written by `SEND` and `ALARM`, which wait for a ready engine, and `cmp_b` by the edge sensor's
handler, whose request the running receiver masks. -/
theorem compareValuesStayWhileRunning : Obligations.CompareValuesStayWhileRunning := by
  intro i s t hinv hi hn h
  obtain ⟨-, -, htx, hrx, -⟩ := InvLive.of_invariant hinv hi
  cases hh : isHostOp i with
  | true =>
    obtain ⟨hcmpB, -⟩ := exec_hostOp_sameReceiver hh hn h
    refine ⟨fun hie => ?_, fun _ _ => hcmpB⟩
    obtain ⟨hcmpA, -⟩ := exec_hostOp_busy_sameTransmit hh hn h (sendReady_of_ieA htx hie)
    exact hcmpA
  | false =>
    obtain ⟨-, -, hcmpA, -⟩ := contextsWriteTheirOwnFields.2 i s t hh h
    exact ⟨fun _ => hcmpA, fun hie => exec_event_cmpB hh h (edgeIe_of_ieB hrx hie)⟩

/-- Settles O19: the guard of R251 refuses a host operation, and lets an environment step write its input only. -/
theorem beforeTheFirstInit : Obligations.BeforeTheFirstInit := by
  intro s hv hi
  refine ⟨fun i hh hn => exec_hostOp_early hh hn hv hi, ?_, fun l => ?_, fun v => ?_⟩
  · exact blockStep_early hv hi id tickBody
  · change execRxline l s = _
    exact blockStep_early hv hi _ _
  · change execGie v s = _
    exact blockStep_early hv hi _ _

end Sys2Proof.Machine
end
